-- ==== Sys2Proof/Word.lean ====
section
/-! DEFINITION. The word types of CORE (00_scope.md R7, R8): 8-bit data, 16-bit addresses, a 64-bit cycle counter. -/

namespace Sys2Proof

/-- A register, a memory byte, a byte on the bus: `u8` of R8. -/
abbrev Byte := BitVec 8

/-- An address, the program counter: `u16` of R8. -/
abbrev Word := BitVec 16

/-- The cycle counter: `u64` of R8, which wraps modulo 2^64 (R32). -/
abbrev Counter := BitVec 64

end Sys2Proof
end

