-- ==== Sys2Proof/Machine/Bytes.lean ====
section
/-! DEFINITION. Byte order, extension and page arithmetic (00_scope.md R8; 20_memory.md R55). -/

namespace Sys2Proof

/-- Bits 7 to 0 of a 16-bit value. -/
def loByte (w : Word) : Byte := w.extractLsb' 0 8

/-- Bits 15 to 8 of a 16-bit value. -/
def hiByte (w : Word) : Byte := w.extractLsb' 8 8

/-- `zext_16(lo) | (zext_16(hi) << 8)`: the byte at the lower address is the low byte (R55). -/
def word (lo hi : Byte) : Word := hi ++ lo

/-- `zext_16(v)` of R8. -/
def zext16 (v : Byte) : Word := v.setWidth 16

/-- `sext_16(v)` of R8. -/
def sext16 (v : Byte) : Word := v.signExtend 16

/-- `page(a) = a & 0xFF00` of R8. -/
def page (a : Word) : Word := a &&& 0xFF00#16

end Sys2Proof
end

