-- ==== Sys2Proof/Config.lean ====
section
/-! DEFINITION. What an implementation fixes and the spec leaves open (00_scope.md R7; 93_implementation_defined.md). -/

namespace Sys2Proof

/-- DESIGN CHOICE, unsafe, log entry 2: `POWER_ON.A` is OPEN in R7 and R38. `State.reset` takes this value. -/
def Config.powerOnA : Byte := 0x00#8

/-- DESIGN CHOICE, unsafe, log entry 2: `POWER_ON.X`. -/
def Config.powerOnX : Byte := 0x00#8

/-- DESIGN CHOICE, unsafe, log entry 2: `POWER_ON.Y`. -/
def Config.powerOnY : Byte := 0x00#8

/-- DESIGN CHOICE, unsafe, log entry 2: `POWER_ON.S`; R38 notes that `$00` gives the document's `S = $FD` after RESET. -/
def Config.powerOnS : Byte := 0x00#8

/-- FREE VALUE, log entry 4: the byte the bus chooses at the n-th read of an address that is neither RAM nor ROM,
"an oracle draw and not a constant" (20_memory.md R53, U6). -/
opaque Config.busDraw : Nat → Byte

/-- FREE VALUE, log entry 10: what an 8-bit accessor (numbered 0 for A, 1 for X, 2 for Y, 3 for S, 4 for P) returns
while an instruction is in flight under `step_cycle`; the second argument is the cycle count (60_exceptions.md R245, U4). -/
opaque Config.midFlightByte : Nat → Nat → Byte

/-- FREE VALUE, log entry 10: what the PC accessor returns while an instruction is in flight. -/
opaque Config.midFlightWord : Nat → Word

/-- FREE VALUE, log entry 10: what the `cycles` accessor returns while an instruction is in flight. -/
opaque Config.midFlightCount : Nat → Counter

end Sys2Proof
end

