-- ==== Sys2Proof/Machine/State.lean ====
section
/-! DEFINITION. The state of the machine as plain data: the core's registers, flags, cycle counter and pending bits
(10_state.md), the bus with its memory (20_memory.md), and the phase of the step (60_exceptions.md R245;
70_reset_and_hazards.md R261). Also the reasons a step can stop, and the state after reset. -/

namespace Sys2Proof.Machine

open Sys2Proof

/-- The six flip-flops of P: "The core holds six flip-flops, N V D I Z C" (R23). Bits 5 and 4 of P are not stored. -/
structure Flags where
  n : Bool
  v : Bool
  d : Bool
  i : Bool
  z : Bool
  c : Bool
deriving DecidableEq, Repr

/-- The register file with PC and the flags, as one value: what an instruction in flight will leave (R245). -/
structure Regs where
  a : Byte
  x : Byte
  y : Byte
  sp : Byte
  pc : Word
  p : Flags
deriving DecidableEq, Repr

/-- What the platform says an address is (20_memory.md R53): RAM, ROM, or anything else (IO, unmapped). -/
inductive AddressKind where
  | ram | rom | io
deriving DecidableEq, Repr

/-- A region of the platform's address map (R53, R58, R59). -/
structure Region where
  base : Nat
  size : Nat
  kind : AddressKind
deriving DecidableEq, Repr

/-- Memory: (address, byte) pairs in one canonical form, `Memory.wf`. -/
abbrev Memory := List Host.Cell

/-- The bus: memory, the platform's declaration of what each address is (the first region that holds an address decides;
an address in none is plain RAM, log entry 3), and the number of oracle draws made so far (log entry 4). -/
structure Bus where
  mem : Memory
  platform : List Region
  draws : Nat
deriving DecidableEq, Repr

/-- What the bus sees in one CPU cycle: at most one operation, then exactly one `tick()` (R54). A read is recorded with
the byte that was returned. -/
inductive BusCycle where
  | read (addr : Word) (value : Byte)
  | write (addr : Word) (value : Byte)
  | idle
deriving DecidableEq, Repr

/-- The two interrupts the dispatcher samples (R230, R231). -/
inductive InterruptSource where
  | nmi | irq
deriving DecidableEq, Repr

/-- What a step request returns when it does not fault (R244). -/
inductive StepResult where
  | executed (opc : Byte)
  | interrupt (source : InterruptSource)
deriving DecidableEq, Repr

/-- An instruction (or interrupt entry) in flight under `step_cycle` (R35, R245): the cycles still to be performed, the
registers it will leave, and the result it will report. -/
structure InFlight where
  todo : List BusCycle
  regs : Regs
  result : Option StepResult
deriving DecidableEq, Repr

/-- Where the core stands: constructed but not yet RESET (R261), at an instruction boundary, or inside an instruction
that `step_cycle` has begun (R245). -/
inductive Phase where
  | beforeReset
  | boundary
  | inFlight (f : InFlight)
deriving DecidableEq, Repr

/-- The machine. -/
structure State where
  /-- A (R20). -/
  a : Byte
  /-- X (R20). -/
  x : Byte
  /-- Y (R20). -/
  y : Byte
  /-- S, the stack pointer (R21). -/
  sp : Byte
  /-- PC (R22). -/
  pc : Word
  /-- P (R23). -/
  p : Flags
  /-- `cycles` (R32). -/
  cycles : Counter
  /-- `pending_nmi` (R33). -/
  pendingNmi : Bool
  /-- `pending_irq` (R34). -/
  pendingIrq : Bool
  /-- R35, R245, R261. -/
  phase : Phase
  /-- The bus and its memory (R50 to R53). -/
  bus : Bus
  /-- The model's record of the bus cycles of the latest request, oldest first (R54, R60; log entry 8). -/
  trace : List BusCycle
  /-- The result of the latest step request (R244; log entry 8). -/
  result : Option StepResult
deriving DecidableEq, Repr

/-- Why the machine stops a step. -/
inductive Fault where
  /-- `IllegalOpcode(byte, pc0)`, raised by `step` and the first `stepCycle` of an instruction when the opcode byte is one
  of the 105 illegal bytes (R76, R239): the byte, the PC it was fetched at, and the state the faulting step leaves, from
  which the environment can go on: "PC not advanced past it", nothing changed but that "the bus has seen the one
  `read(pc0)`" (log entry 9). Safe: it is the spec's own fault. -/
  | illegalOpcode (byte : Byte) (pc : Word) (left : State)
deriving DecidableEq, Repr

/-- Why the model gives a request no meaning. -/
inductive Refusal where
  /-- Raised by `exec` alone, for an instruction that has no meaning yet. Safe. -/
  | notModelled (mnemonic : String)
  /-- Raised by `step` and `stepCycle` between construction and the first RESET: "a step request there is outside this
  spec" (R261, U3: refuse). Safe. -/
  | stepBeforeReset
  /-- Raised by `step`, RESET and a memory load while an instruction is in flight under `step_cycle`: "is outside this
  spec" (R245, U5: refuse; log entry 10). Safe. -/
  | instructionInFlight
deriving DecidableEq, Repr

/-- The state after construction and one RESET (R37, R260, R261) on a bus that lists nothing: `POWER_ON` registers as
`Config` has them, `S = POWER_ON.S - 3`, `P = $24`, `PC` the word at `$FFFC/$FFFD`, `cycles = 7`, and the bus has seen
RESET's seven cycles. Log entries 1 to 4 and 8. -/
def State.reset : State where
  a := Config.powerOnA
  x := Config.powerOnX
  y := Config.powerOnY
  sp := Config.powerOnS - 3
  pc := 0x0000#16
  p := ⟨false, false, false, true, false, false⟩
  cycles := 7
  pendingNmi := false
  pendingIrq := false
  phase := .boundary
  bus := ⟨[], [], 0⟩
  trace := [.idle, .idle, .idle, .idle, .idle, .read 0xFFFC#16 0x00#8, .read 0xFFFD#16 0x00#8]
  result := none

end Sys2Proof.Machine
end

