-- ==== Sys2Proof/Machine/Flags.lean ====
section
/-! DEFINITION. The packed view of P and its pushed copies (10_state.md R24, R27 to R30), and every result and flag
computation of the instruction rules: binary and decimal arithmetic (43_arithmetic.md), shifts (45_shifts.md), compares
and bit test (46_compare_bit.md). A function that yields a result and flags takes the old flags and changes the ones its
rule names. -/

namespace Sys2Proof.Machine

open Sys2Proof

/-- A flag as a number, for the sums of R140 to R143. -/
def carryNat (c : Bool) : Nat := if c then 1 else 0

/-- Bit 7 of a byte, its sign bit (R8). -/
def bit7 (v : Byte) : Bool := v.getLsbD 7

/-- `P = (N << 7) | (V << 6) | (1 << 5) | (0 << 4) | (D << 3) | (I << 2) | (Z << 1) | C` (R24, R26; log entry 11). -/
def Flags.pack (p : Flags) : Byte :=
  BitVec.ofBool p.n ++ BitVec.ofBool p.v ++ 1#1 ++ 0#1 ++ BitVec.ofBool p.d ++ BitVec.ofBool p.i ++ BitVec.ofBool p.z
    ++ BitVec.ofBool p.c

/-- `PackPHP()`: the byte PHP and BRK push (R27). -/
def Flags.packPhp (p : Flags) : Byte := p.pack ||| 0x30#8

/-- `PackIRQ()`: the byte an NMI or IRQ entry pushes (R28). -/
def Flags.packIrq (p : Flags) : Byte := (p.pack &&& ~~~0x10#8) ||| 0x20#8

/-- `Unpack(v)`: the six flags from bits 7, 6, 3, 2, 1, 0 (R29). -/
def Flags.unpack (v : Byte) : Flags :=
  ⟨v.getLsbD 7, v.getLsbD 6, v.getLsbD 3, v.getLsbD 2, v.getLsbD 1, v.getLsbD 0⟩

/-- `SetZN(v)` (R30). -/
def Flags.setZN (p : Flags) (v : Byte) : Flags := { p with z := v == 0x00#8, n := bit7 v }

/-- `((A ^ r) & (M ^ r) & 0x80) != 0` (R140). -/
def overflowBit (a m r : Byte) : Bool := ((a ^^^ r) &&& (m ^^^ r) &&& 0x80#8) != 0x00#8

/-- ADC with `P.D = 0` (R140): the accumulator and the flags. -/
def adcBinary (a m : Byte) (p : Flags) : Byte × Flags :=
  let sum := a.toNat + m.toNat + carryNat p.c
  let r := BitVec.ofNat 8 sum
  (r, { p with v := overflowBit a m r, c := decide (0xFF < sum) }.setZN r)

/-- The decimal-adjusted sum of the low digits, with one carry into bit 4 kept (R141, `al`). -/
def decimalAddLow (a m : Byte) (c : Bool) : Nat :=
  let al := a.toNat % 16 + m.toNat % 16 + carryNat c
  if 0x0A ≤ al then (al + 0x06) % 16 + 0x10 else al

/-- The sum before the high digit is adjusted (R141, `t`): `(A & 0xF0) + (M & 0xF0) + al`. -/
def decimalAddMid (a m : Byte) (c : Bool) : Nat :=
  a.toNat / 16 * 16 + m.toNat / 16 * 16 + decimalAddLow a m c

/-- ADC with `P.D = 1`, `ADC_decimal` of R141: N and V from `t` before the high-digit adjustment, Z from the binary sum. -/
def adcDecimal (a m : Byte) (p : Flags) : Byte × Flags :=
  let bin := a.toNat + m.toNat + carryNat p.c
  let t := decimalAddMid a m p.c
  let u := if 0xA0 ≤ t then t + 0x60 else t
  (BitVec.ofNat 8 u,
    { p with
      n := bit7 (BitVec.ofNat 8 t)
      v := overflowBit a m (BitVec.ofNat 8 t)
      c := decide (0x100 ≤ u)
      z := BitVec.ofNat 8 bin == 0x00#8 })

/-- ADC (R140): binary or decimal by `P.D`. -/
def adcResult (a m : Byte) (p : Flags) : Byte × Flags := if p.d then adcDecimal a m p else adcBinary a m p

/-- The decimal-adjusted difference of the low digits, with one borrow kept (R143, `al`). -/
def decimalSubLow (a m : Byte) (c : Bool) : Int :=
  let al : Int := (a.toNat % 16 : Nat) - (m.toNat % 16 : Nat) + carryNat c - 1
  if al < 0 then (al - 0x06) % 16 - 0x10 else al

/-- `SBC_decimal(A, M, c)` (R143). -/
def sbcDecimal (a m : Byte) (c : Bool) : Byte :=
  let t : Int := (a.toNat / 16 * 16 : Nat) - (m.toNat / 16 * 16 : Nat) + decimalSubLow a m c
  BitVec.ofInt 8 (if t < 0 then t - 0x60 else t)

/-- SBC (R142): in both modes the flags of the binary subtraction, which is the binary ADC of `~M`; the accumulator is
that difference, or with `P.D = 1` the decimal one of R143. -/
def sbcResult (a m : Byte) (p : Flags) : Byte × Flags :=
  let r := adcBinary a (~~~m) p
  (if p.d then sbcDecimal a m p.c else r.1, r.2)

/-- ASL (R160): the value, C the bit shifted out, SetZN. -/
def aslResult (v : Byte) (p : Flags) : Byte × Flags :=
  let r := v <<< 1
  (r, { p with c := bit7 v }.setZN r)

/-- LSR (R161). -/
def lsrResult (v : Byte) (p : Flags) : Byte × Flags :=
  let r := v >>> 1
  (r, { p with c := v.getLsbD 0 }.setZN r)

/-- ROL (R162): the old carry enters bit 0. -/
def rolResult (v : Byte) (p : Flags) : Byte × Flags :=
  let r := (v <<< 1) ||| (BitVec.ofBool p.c).setWidth 8
  (r, { p with c := bit7 v }.setZN r)

/-- ROR (R163): the old carry enters bit 7. -/
def rorResult (v : Byte) (p : Flags) : Byte × Flags :=
  let r := (v >>> 1) ||| ((BitVec.ofBool p.c).setWidth 8 <<< 7)
  (r, { p with c := v.getLsbD 0 }.setZN r)

/-- INC (R153): SetZN of the incremented byte. -/
def incResult (v : Byte) (p : Flags) : Byte × Flags := (v + 1, p.setZN (v + 1))

/-- DEC (R154): SetZN of the decremented byte. -/
def decResult (v : Byte) (p : Flags) : Byte × Flags := (v - 1, p.setZN (v - 1))

/-- The flags of CMP, CPX, CPY (R170 to R172): C iff `reg ≥ M` unsigned, Z iff equal, N bit 7 of the 8-bit difference. -/
def compareFlags (r m : Byte) (p : Flags) : Flags :=
  { p with c := decide (m.toNat ≤ r.toNat), z := r == m, n := bit7 (r - m) }

/-- The flags of BIT (R173): Z from `A & M`, N and V bits 7 and 6 of the memory byte. -/
def bitFlags (a m : Byte) (p : Flags) : Flags :=
  { p with z := (a &&& m) == 0x00#8, n := bit7 m, v := m.getLsbD 6 }

end Sys2Proof.Machine
end

