-- ==== Sys2Proof/Machine/Memory.lean ====
section
/-! DEFINITION. Memory as a canonical list of cells, and what the bus answers and does in one cycle
(20_memory.md R50 to R53). -/

namespace Sys2Proof.Machine

open Sys2Proof

/-- What an address that the list does not name reads as. DESIGN CHOICE, unsafe, log entry 1: "RAM content is whatever
the bus holds; the core initialises no memory" (70_reset_and_hazards.md R262). -/
def Memory.unlisted : Byte := 0x00#8

/-- The byte at an address. -/
def Memory.read (m : Memory) (a : Nat) : Byte :=
  match m with
  | [] => Memory.unlisted
  | (k, v) :: rest => if k = a then v else Memory.read rest a

/-- A cell in front of a list, or nothing where the byte is what an unlisted address reads as. -/
def Memory.consCell (a : Nat) (b : Byte) (m : Memory) : Memory :=
  if b = Memory.unlisted then m else (a, b) :: m

/-- Memory with byte `b` at address `a`. -/
def Memory.write (m : Memory) (a : Nat) (b : Byte) : Memory :=
  match m with
  | [] => Memory.consCell a b []
  | (k, v) :: rest =>
    if a < k then Memory.consCell a b ((k, v) :: rest)
    else if a = k then Memory.consCell a b rest
    else (k, v) :: Memory.write rest a b

/-- The list is canonical from address `lo` up: addresses strictly rising, within the 65536 of R50, and no cell holds what
an unlisted address reads as. -/
def Memory.wfFrom (lo : Nat) (m : Memory) : Bool :=
  match m with
  | [] => true
  | (k, v) :: rest =>
    decide (lo ≤ k) && decide (k < 65536) && decide (v ≠ Memory.unlisted) && Memory.wfFrom (k + 1) rest

/-- The canonical form, so that equal memories are equal lists. -/
def Memory.wf (m : Memory) : Bool := Memory.wfFrom 0 m

/-- Whether a region holds an address. -/
def Region.holds (r : Region) (a : Word) : Bool := decide (r.base ≤ a.toNat) && decide (a.toNat < r.base + r.size)

/-- What the platform declares an address to be (R53): the first region that holds it decides; plain RAM where none does. -/
def Bus.kindAt (b : Bus) (a : Word) : AddressKind :=
  match b.platform.find? (fun r => r.holds a) with
  | some r => r.kind
  | none => .ram

/-- The byte a `read` of this address returns now (R53): at a RAM or ROM address the byte held there, at any other "an
arbitrary value chosen by the bus", the next oracle draw (log entry 4). -/
def Bus.value (b : Bus) (a : Word) : Byte :=
  match b.kindAt a with
  | .ram | .rom => Memory.read b.mem a.toNat
  | .io => Config.busDraw b.draws

/-- What one cycle does to the bus: a read of an address that is neither RAM nor ROM uses up an oracle draw (R51, R53); a
write is stored at a RAM address and has no lasting effect elsewhere (R52, R53). -/
def Bus.perform (b : Bus) (c : BusCycle) : Bus :=
  match c with
  | .read a _ =>
    match b.kindAt a with
    | .ram | .rom => b
    | .io => { b with draws := b.draws + 1 }
  | .write a v =>
    match b.kindAt a with
    | .ram => { b with mem := Memory.write b.mem a.toNat v }
    | .rom | .io => b
  | .idle => b

/-- The environment puts a byte into memory, in RAM or ROM alike (20_memory.md R59, R66: "load a ROM image"). -/
def Bus.load (b : Bus) (a : Word) (v : Byte) : Bus := { b with mem := Memory.write b.mem a.toNat v }

end Sys2Proof.Machine
end

