-- ==== Sys2Proof/Machine/Ops.lean ====
section
/-! DEFINITION. The named operations over the state: one update for each field that changes, the bus-cycle primitives
(00_scope.md R10, R11), the stack, taking an interrupt or BRK and returning from it (60_exceptions.md R235;
49_brk_rti.md R220, R221), and RESET (70_reset_and_hazards.md R260). -/

namespace Sys2Proof.Machine

open Sys2Proof

/-! Updates of one field. -/

def State.setA (s : State) (v : Byte) : State := { s with a := v }
def State.setX (s : State) (v : Byte) : State := { s with x := v }
def State.setY (s : State) (v : Byte) : State := { s with y := v }
def State.setSp (s : State) (v : Byte) : State := { s with sp := v }
def State.setPc (s : State) (v : Word) : State := { s with pc := v }
def State.setP (s : State) (v : Flags) : State := { s with p := v }
def State.setPendingNmi (s : State) (v : Bool) : State := { s with pendingNmi := v }
def State.setPendingIrq (s : State) (v : Bool) : State := { s with pendingIrq := v }
def State.setPhase (s : State) (v : Phase) : State := { s with phase := v }
def State.setBus (s : State) (v : Bus) : State := { s with bus := v }
def State.setTrace (s : State) (v : List BusCycle) : State := { s with trace := v }
def State.setResult (s : State) (v : Option StepResult) : State := { s with result := v }

/-- The register file, PC and flags. -/
def State.regs (s : State) : Regs := ⟨s.a, s.x, s.y, s.sp, s.pc, s.p⟩

/-- The state with the given register file, PC and flags. -/
def State.setRegs (s : State) (r : Regs) : State :=
  { s with a := r.a, x := r.x, y := r.y, sp := r.sp, pc := r.pc, p := r.p }

/-- SetZN (R30). -/
def State.setZN (s : State) (v : Byte) : State := s.setP (s.p.setZN v)

/-- One CPU cycle (R10, R54): the bus operation, one tick, `cycles + 1` modulo 2^64. -/
def State.cycle (s : State) (c : BusCycle) : State :=
  { s with bus := s.bus.perform c, cycles := s.cycles + 1, trace := s.trace ++ [c] }

/-! The primitives of R10 and R11. -/

/-- `MemRead(addr, 1)`: the byte and the state after the cycle. -/
def memRead (addr : Word) (s : State) : Byte × State :=
  (s.bus.value addr, s.cycle (.read addr (s.bus.value addr)))

/-- `MemWrite(addr, 1, v)`. -/
def memWrite (addr : Word) (v : Byte) (s : State) : State := s.cycle (.write addr v)

/-- `Idle()`. -/
def idle (s : State) : State := s.cycle .idle

/-- The cycle of a `Fetch8()` that returned `v`: a read at PC, then PC + 1. The dispatcher has taken the operand bytes
from the bus when it decoded the instruction (`Machine/Fetch.lean`, log entry 7), so the rule's fetch carries its value. -/
def fetchByte (v : Byte) (s : State) : State := (s.cycle (.read s.pc v)).setPc (s.pc + 1)

/-- Two `Fetch8()` cycles that returned the bytes of `w`, low byte first (R55). -/
def fetchWord (w : Word) (s : State) : State := fetchByte (hiByte w) (fetchByte (loByte w) s)

/-- "the physical stack address is `0x0100 | S`" (R21). -/
def stackAddr (sp : Byte) : Word := 0x0100#16 ||| zext16 sp

/-- `Push(v)`: write at the address of the old S, then S - 1 (R11). -/
def push (v : Byte) (s : State) : State := (memWrite (stackAddr s.sp) v s).setSp (s.sp - 1)

/-- `Pull()`: S + 1, then read at the address of the new S (R11). -/
def pull (s : State) : Byte × State := memRead (stackAddr (s.sp + 1)) (s.setSp (s.sp + 1))

/-! Vectors (R236). -/

def nmiVector : Word := 0xFFFA#16
def resetVector : Word := 0xFFFC#16
def irqVector : Word := 0xFFFE#16

/-- Load PC from a vector: low byte at the vector, then high byte (R55, R236). Two cycles. -/
def jumpThrough (vec : Word) (s : State) : State :=
  let lo := memRead vec s
  let hi := memRead (vec + 1) lo.2
  hi.2.setPc (word lo.1 hi.1)

/-- Taking an exception: what BRK, NMI and IRQ share (R220, R235). Push the return address high then low, push the given
copy of P, set I, load PC from the vector. Five cycles. -/
def enterHandler (ret : Word) (pushedP : Byte) (vec : Word) (s : State) : State :=
  let t := push pushedP (push (loByte ret) (push (hiByte ret) s))
  jumpThrough vec (t.setP { t.p with i := true })

/-- `InterruptEntry(vec)` (R235): a dummy read at PC, an idle cycle, then the entry with `PackIRQ()`. Seven cycles. -/
def interruptEntry (vec : Word) (s : State) : State :=
  enterHandler s.pc s.p.packIrq vec (idle (memRead s.pc s).2)

/-- BRK's entry after its opcode fetch (R220), when `PC = pc0 + 1`: the return address is `pc0 + 2`, the pushed copy
`PackPHP()`, the vector `$FFFE/$FFFF`. Six cycles. -/
def brkEntry (s : State) : State :=
  enterHandler (s.pc + 1) s.p.packPhp irqVector (idle s)

/-- Returning from an exception after RTI's opcode fetch (R221, R238): P, then PC low, then PC high, no adjustment. -/
def returnFromInterrupt (s : State) : State :=
  let v := pull (idle (idle s))
  let lo := pull (v.2.setP (Flags.unpack v.1))
  let hi := pull lo.2
  hi.2.setPc (word lo.1 hi.1)

/-- P after RESET: `P = 0x24` (R260). -/
def Flags.afterReset : Flags := ⟨false, false, false, true, false, false⟩

/-- The RESET sequence (R260): five idle cycles, S - 3 with no write, every flag, PC from `$FFFC/$FFFD`, both pending bits
cleared. -/
def resetSequence (s : State) : State :=
  let t := idle (idle (idle (idle (idle s))))
  let u := jumpThrough resetVector ((t.setSp (t.sp - 3)).setP Flags.afterReset)
  (u.setPendingNmi false).setPendingIrq false

end Sys2Proof.Machine
end

