-- ==== Sys2Proof/Syntax.lean ====
section
/-! DEFINITION. The syntax of CORE's instruction set: the 56 mnemonics (30_encoding.md R79), the 13 addressing modes
(40_addressing_modes.md), the access classes (R95), the operand forms, and `Instr`, one constructor for each of the 151
rows of the opcode table (R74). -/

namespace Sys2Proof

/-- The 56 official mnemonics, in the order of R79. -/
inductive Mnemonic where
  | lda | ldx | ldy | sta | stx | sty | tax | tay | tsx | txa | tya | txs | adc | sbc | and | ora | eor |
    inc | dec | inx | iny | dex | dey | asl | lsr | rol | ror | cmp | cpx | cpy | bit | bpl | bmi | bvc |
    bvs | bcc | bcs | bne | beq | jmp | jsr | rts | pha | pla | php | plp | clc | sec | cld | sed | cli |
    sei | clv | nop | brk | rti
deriving DecidableEq, Repr

/-- The 13 addressing modes (R70, R81 to R93). -/
inductive Mode where
  | imp | acc | imm | zp | zpx | zpy | abs | absx | absy | ind | izx | izy | rel
deriving DecidableEq, Repr

/-- What an instruction does at its effective address (R95). -/
inductive AccessClass where
  | read | write | rmw
deriving DecidableEq, Repr

/-- A memory operand: an addressing mode that yields an effective address, with its operand bytes
(30_encoding.md R72). A 16-bit operand is the value `lo | hi<<8` of the two bytes. -/
inductive Operand where
  | imm (op : Byte)
  | zp (op : Byte)
  | zpx (op : Byte)
  | zpy (op : Byte)
  | abs (addr : Word)
  | absx (addr : Word)
  | absy (addr : Word)
  | izx (op : Byte)
  | izy (op : Byte)
deriving DecidableEq, Repr

/-- The operand form of an instruction: implied, accumulator, a memory operand (for JMP and JSR, whose form is ABS, the
target itself), the pointer of JMP indirect, or a branch offset, "a signed value from -128 to +127" (R72). -/
inductive Form where
  | imp
  | acc
  | mem (o : Operand)
  | ind (ptr : Word)
  | rel (offset : Int)
deriving DecidableEq, Repr

/-- The instructions: one constructor for each row of the opcode table (R74). -/
inductive Instr where
  /-- `$00`: `BRK` (R220). -/
  | brk
  /-- `$01`: `ORA ($nn,X)` (R151). -/
  | oraIzx (op : Byte)
  /-- `$05`: `ORA $nn` (R151). -/
  | oraZp (op : Byte)
  /-- `$06`: `ASL $nn` (R160). -/
  | aslZp (op : Byte)
  /-- `$08`: `PHP` (R202). -/
  | php
  /-- `$09`: `ORA #$nn` (R151). -/
  | oraImm (op : Byte)
  /-- `$0A`: `ASL A` (R160). -/
  | aslAcc
  /-- `$0D`: `ORA $nnnn` (R151). -/
  | oraAbs (addr : Word)
  /-- `$0E`: `ASL $nnnn` (R160). -/
  | aslAbs (addr : Word)
  /-- `$10`: `BPL target` (R181). -/
  | bpl (offset : Int)
  /-- `$11`: `ORA ($nn),Y` (R151). -/
  | oraIzy (op : Byte)
  /-- `$15`: `ORA $nn,X` (R151). -/
  | oraZpx (op : Byte)
  /-- `$16`: `ASL $nn,X` (R160). -/
  | aslZpx (op : Byte)
  /-- `$18`: `CLC` (R204). -/
  | clc
  /-- `$19`: `ORA $nnnn,Y` (R151). -/
  | oraAbsy (addr : Word)
  /-- `$1D`: `ORA $nnnn,X` (R151). -/
  | oraAbsx (addr : Word)
  /-- `$1E`: `ASL $nnnn,X` (R160). -/
  | aslAbsx (addr : Word)
  /-- `$20`: `JSR $nnnn` (R190). -/
  | jsr (addr : Word)
  /-- `$21`: `AND ($nn,X)` (R150). -/
  | andIzx (op : Byte)
  /-- `$24`: `BIT $nn` (R173). -/
  | bitZp (op : Byte)
  /-- `$25`: `AND $nn` (R150). -/
  | andZp (op : Byte)
  /-- `$26`: `ROL $nn` (R162). -/
  | rolZp (op : Byte)
  /-- `$28`: `PLP` (R203). -/
  | plp
  /-- `$29`: `AND #$nn` (R150). -/
  | andImm (op : Byte)
  /-- `$2A`: `ROL A` (R162). -/
  | rolAcc
  /-- `$2C`: `BIT $nnnn` (R173). -/
  | bitAbs (addr : Word)
  /-- `$2D`: `AND $nnnn` (R150). -/
  | andAbs (addr : Word)
  /-- `$2E`: `ROL $nnnn` (R162). -/
  | rolAbs (addr : Word)
  /-- `$30`: `BMI target` (R182). -/
  | bmi (offset : Int)
  /-- `$31`: `AND ($nn),Y` (R150). -/
  | andIzy (op : Byte)
  /-- `$35`: `AND $nn,X` (R150). -/
  | andZpx (op : Byte)
  /-- `$36`: `ROL $nn,X` (R162). -/
  | rolZpx (op : Byte)
  /-- `$38`: `SEC` (R205). -/
  | sec
  /-- `$39`: `AND $nnnn,Y` (R150). -/
  | andAbsy (addr : Word)
  /-- `$3D`: `AND $nnnn,X` (R150). -/
  | andAbsx (addr : Word)
  /-- `$3E`: `ROL $nnnn,X` (R162). -/
  | rolAbsx (addr : Word)
  /-- `$40`: `RTI` (R221). -/
  | rti
  /-- `$41`: `EOR ($nn,X)` (R152). -/
  | eorIzx (op : Byte)
  /-- `$45`: `EOR $nn` (R152). -/
  | eorZp (op : Byte)
  /-- `$46`: `LSR $nn` (R161). -/
  | lsrZp (op : Byte)
  /-- `$48`: `PHA` (R200). -/
  | pha
  /-- `$49`: `EOR #$nn` (R152). -/
  | eorImm (op : Byte)
  /-- `$4A`: `LSR A` (R161). -/
  | lsrAcc
  /-- `$4C`: `JMP $nnnn` (R189). -/
  | jmpAbs (addr : Word)
  /-- `$4D`: `EOR $nnnn` (R152). -/
  | eorAbs (addr : Word)
  /-- `$4E`: `LSR $nnnn` (R161). -/
  | lsrAbs (addr : Word)
  /-- `$50`: `BVC target` (R183). -/
  | bvc (offset : Int)
  /-- `$51`: `EOR ($nn),Y` (R152). -/
  | eorIzy (op : Byte)
  /-- `$55`: `EOR $nn,X` (R152). -/
  | eorZpx (op : Byte)
  /-- `$56`: `LSR $nn,X` (R161). -/
  | lsrZpx (op : Byte)
  /-- `$58`: `CLI` (R208). -/
  | cli
  /-- `$59`: `EOR $nnnn,Y` (R152). -/
  | eorAbsy (addr : Word)
  /-- `$5D`: `EOR $nnnn,X` (R152). -/
  | eorAbsx (addr : Word)
  /-- `$5E`: `LSR $nnnn,X` (R161). -/
  | lsrAbsx (addr : Word)
  /-- `$60`: `RTS` (R191). -/
  | rts
  /-- `$61`: `ADC ($nn,X)` (R140). -/
  | adcIzx (op : Byte)
  /-- `$65`: `ADC $nn` (R140). -/
  | adcZp (op : Byte)
  /-- `$66`: `ROR $nn` (R163). -/
  | rorZp (op : Byte)
  /-- `$68`: `PLA` (R201). -/
  | pla
  /-- `$69`: `ADC #$nn` (R140). -/
  | adcImm (op : Byte)
  /-- `$6A`: `ROR A` (R163). -/
  | rorAcc
  /-- `$6C`: `JMP ($nnnn)` (R189). -/
  | jmpInd (addr : Word)
  /-- `$6D`: `ADC $nnnn` (R140). -/
  | adcAbs (addr : Word)
  /-- `$6E`: `ROR $nnnn` (R163). -/
  | rorAbs (addr : Word)
  /-- `$70`: `BVS target` (R184). -/
  | bvs (offset : Int)
  /-- `$71`: `ADC ($nn),Y` (R140). -/
  | adcIzy (op : Byte)
  /-- `$75`: `ADC $nn,X` (R140). -/
  | adcZpx (op : Byte)
  /-- `$76`: `ROR $nn,X` (R163). -/
  | rorZpx (op : Byte)
  /-- `$78`: `SEI` (R209). -/
  | sei
  /-- `$79`: `ADC $nnnn,Y` (R140). -/
  | adcAbsy (addr : Word)
  /-- `$7D`: `ADC $nnnn,X` (R140). -/
  | adcAbsx (addr : Word)
  /-- `$7E`: `ROR $nnnn,X` (R163). -/
  | rorAbsx (addr : Word)
  /-- `$81`: `STA ($nn,X)` (R123). -/
  | staIzx (op : Byte)
  /-- `$84`: `STY $nn` (R125). -/
  | styZp (op : Byte)
  /-- `$85`: `STA $nn` (R123). -/
  | staZp (op : Byte)
  /-- `$86`: `STX $nn` (R124). -/
  | stxZp (op : Byte)
  /-- `$88`: `DEY` (R158). -/
  | dey
  /-- `$8A`: `TXA` (R133). -/
  | txa
  /-- `$8C`: `STY $nnnn` (R125). -/
  | styAbs (addr : Word)
  /-- `$8D`: `STA $nnnn` (R123). -/
  | staAbs (addr : Word)
  /-- `$8E`: `STX $nnnn` (R124). -/
  | stxAbs (addr : Word)
  /-- `$90`: `BCC target` (R185). -/
  | bcc (offset : Int)
  /-- `$91`: `STA ($nn),Y` (R123). -/
  | staIzy (op : Byte)
  /-- `$94`: `STY $nn,X` (R125). -/
  | styZpx (op : Byte)
  /-- `$95`: `STA $nn,X` (R123). -/
  | staZpx (op : Byte)
  /-- `$96`: `STX $nn,Y` (R124). -/
  | stxZpy (op : Byte)
  /-- `$98`: `TYA` (R134). -/
  | tya
  /-- `$99`: `STA $nnnn,Y` (R123). -/
  | staAbsy (addr : Word)
  /-- `$9A`: `TXS` (R135). -/
  | txs
  /-- `$9D`: `STA $nnnn,X` (R123). -/
  | staAbsx (addr : Word)
  /-- `$A0`: `LDY #$nn` (R122). -/
  | ldyImm (op : Byte)
  /-- `$A1`: `LDA ($nn,X)` (R120). -/
  | ldaIzx (op : Byte)
  /-- `$A2`: `LDX #$nn` (R121). -/
  | ldxImm (op : Byte)
  /-- `$A4`: `LDY $nn` (R122). -/
  | ldyZp (op : Byte)
  /-- `$A5`: `LDA $nn` (R120). -/
  | ldaZp (op : Byte)
  /-- `$A6`: `LDX $nn` (R121). -/
  | ldxZp (op : Byte)
  /-- `$A8`: `TAY` (R131). -/
  | tay
  /-- `$A9`: `LDA #$nn` (R120). -/
  | ldaImm (op : Byte)
  /-- `$AA`: `TAX` (R130). -/
  | tax
  /-- `$AC`: `LDY $nnnn` (R122). -/
  | ldyAbs (addr : Word)
  /-- `$AD`: `LDA $nnnn` (R120). -/
  | ldaAbs (addr : Word)
  /-- `$AE`: `LDX $nnnn` (R121). -/
  | ldxAbs (addr : Word)
  /-- `$B0`: `BCS target` (R186). -/
  | bcs (offset : Int)
  /-- `$B1`: `LDA ($nn),Y` (R120). -/
  | ldaIzy (op : Byte)
  /-- `$B4`: `LDY $nn,X` (R122). -/
  | ldyZpx (op : Byte)
  /-- `$B5`: `LDA $nn,X` (R120). -/
  | ldaZpx (op : Byte)
  /-- `$B6`: `LDX $nn,Y` (R121). -/
  | ldxZpy (op : Byte)
  /-- `$B8`: `CLV` (R210). -/
  | clv
  /-- `$B9`: `LDA $nnnn,Y` (R120). -/
  | ldaAbsy (addr : Word)
  /-- `$BA`: `TSX` (R132). -/
  | tsx
  /-- `$BC`: `LDY $nnnn,X` (R122). -/
  | ldyAbsx (addr : Word)
  /-- `$BD`: `LDA $nnnn,X` (R120). -/
  | ldaAbsx (addr : Word)
  /-- `$BE`: `LDX $nnnn,Y` (R121). -/
  | ldxAbsy (addr : Word)
  /-- `$C0`: `CPY #$nn` (R172). -/
  | cpyImm (op : Byte)
  /-- `$C1`: `CMP ($nn,X)` (R170). -/
  | cmpIzx (op : Byte)
  /-- `$C4`: `CPY $nn` (R172). -/
  | cpyZp (op : Byte)
  /-- `$C5`: `CMP $nn` (R170). -/
  | cmpZp (op : Byte)
  /-- `$C6`: `DEC $nn` (R154). -/
  | decZp (op : Byte)
  /-- `$C8`: `INY` (R156). -/
  | iny
  /-- `$C9`: `CMP #$nn` (R170). -/
  | cmpImm (op : Byte)
  /-- `$CA`: `DEX` (R157). -/
  | dex
  /-- `$CC`: `CPY $nnnn` (R172). -/
  | cpyAbs (addr : Word)
  /-- `$CD`: `CMP $nnnn` (R170). -/
  | cmpAbs (addr : Word)
  /-- `$CE`: `DEC $nnnn` (R154). -/
  | decAbs (addr : Word)
  /-- `$D0`: `BNE target` (R187). -/
  | bne (offset : Int)
  /-- `$D1`: `CMP ($nn),Y` (R170). -/
  | cmpIzy (op : Byte)
  /-- `$D5`: `CMP $nn,X` (R170). -/
  | cmpZpx (op : Byte)
  /-- `$D6`: `DEC $nn,X` (R154). -/
  | decZpx (op : Byte)
  /-- `$D8`: `CLD` (R206). -/
  | cld
  /-- `$D9`: `CMP $nnnn,Y` (R170). -/
  | cmpAbsy (addr : Word)
  /-- `$DD`: `CMP $nnnn,X` (R170). -/
  | cmpAbsx (addr : Word)
  /-- `$DE`: `DEC $nnnn,X` (R154). -/
  | decAbsx (addr : Word)
  /-- `$E0`: `CPX #$nn` (R171). -/
  | cpxImm (op : Byte)
  /-- `$E1`: `SBC ($nn,X)` (R142). -/
  | sbcIzx (op : Byte)
  /-- `$E4`: `CPX $nn` (R171). -/
  | cpxZp (op : Byte)
  /-- `$E5`: `SBC $nn` (R142). -/
  | sbcZp (op : Byte)
  /-- `$E6`: `INC $nn` (R153). -/
  | incZp (op : Byte)
  /-- `$E8`: `INX` (R155). -/
  | inx
  /-- `$E9`: `SBC #$nn` (R142). -/
  | sbcImm (op : Byte)
  /-- `$EA`: `NOP` (R211). -/
  | nop
  /-- `$EC`: `CPX $nnnn` (R171). -/
  | cpxAbs (addr : Word)
  /-- `$ED`: `SBC $nnnn` (R142). -/
  | sbcAbs (addr : Word)
  /-- `$EE`: `INC $nnnn` (R153). -/
  | incAbs (addr : Word)
  /-- `$F0`: `BEQ target` (R188). -/
  | beq (offset : Int)
  /-- `$F1`: `SBC ($nn),Y` (R142). -/
  | sbcIzy (op : Byte)
  /-- `$F5`: `SBC $nn,X` (R142). -/
  | sbcZpx (op : Byte)
  /-- `$F6`: `INC $nn,X` (R153). -/
  | incZpx (op : Byte)
  /-- `$F8`: `SED` (R207). -/
  | sed
  /-- `$F9`: `SBC $nnnn,Y` (R142). -/
  | sbcAbsy (addr : Word)
  /-- `$FD`: `SBC $nnnn,X` (R142). -/
  | sbcAbsx (addr : Word)
  /-- `$FE`: `INC $nnnn,X` (R153). -/
  | incAbsx (addr : Word)
deriving DecidableEq, Repr

end Sys2Proof
end

