-- ==== Sys2Proof/Machine/Operands.lean ====
section
/-! DEFINITION. The addressing-mode resolver (40_addressing_modes.md R80 to R96) and the three ways an instruction uses
its memory operand: read, write, read-modify-write (R95; 20_memory.md R61). -/

namespace Sys2Proof.Machine

open Sys2Proof

/-- What `Resolve(mode, cls)` returns (R80), with the state it leaves. -/
structure Resolved where
  ea : Word
  crossed : Bool
  after : State
deriving DecidableEq, Repr

/-- The last part of the indexed modes ABSX, ABSY, IZY (R88, R89, R92): the 16-bit sum, the page test, and the idle cycle
that a read takes only when the page is crossed. -/
def resolveIndexed (base : Word) (index : Byte) (cls : AccessClass) (s : State) : Resolved :=
  let ea := base + zext16 index
  let crossed := page base != page ea
  ⟨ea, crossed, if cls != .read || crossed then idle s else s⟩

/-- The word that a zero-page pointer holds; the address of the high byte wraps inside page 0 (R91, R92). Two cycles. -/
def readZeroPageWord (ptr : Byte) (s : State) : Word × State :=
  let lo := memRead (zext16 ptr) s
  let hi := memRead (zext16 (ptr + 1)) lo.2
  (word lo.1 hi.1, hi.2)

/-- `Resolve(mode, cls)` for the modes of a memory operand (R83 to R89, R91, R92). -/
def resolve (o : Operand) (cls : AccessClass) (s : State) : Resolved :=
  match o with
  | .imm _ => ⟨s.pc, false, s.setPc (s.pc + 1)⟩
  | .zp op => ⟨zext16 op, false, fetchByte op s⟩
  | .zpx op => ⟨zext16 (op + s.x), false, idle (fetchByte op s)⟩
  | .zpy op => ⟨zext16 (op + s.y), false, idle (fetchByte op s)⟩
  | .abs addr => ⟨addr, false, fetchWord addr s⟩
  | .absx addr => resolveIndexed addr s.x cls (fetchWord addr s)
  | .absy addr => resolveIndexed addr s.y cls (fetchWord addr s)
  | .izx op =>
    let w := readZeroPageWord (op + s.x) (idle (fetchByte op s))
    ⟨w.1, false, w.2⟩
  | .izy op =>
    let w := readZeroPageWord op (fetchByte op s)
    resolveIndexed w.1 s.y cls w.2

/-- The address of the high byte of JMP indirect's target: in the page of the low byte (R90). -/
def indirectHighAddr (ptr : Word) : Word := (ptr &&& 0xFF00#16) ||| ((ptr + 1) &&& 0x00FF#16)

/-- Mode IND (R90), with the page-boundary bug. -/
def resolveIndirect (ptr : Word) (s : State) : Resolved :=
  let lo := memRead ptr (fetchWord ptr s)
  let hi := memRead (indirectHighAddr ptr) lo.2
  ⟨word lo.1 hi.1, false, hi.2⟩

/-- Mode REL (R93): the target from the address after the branch, and whether it is in another page. -/
def resolveRelative (offset : Int) (s : State) : Resolved :=
  let op := BitVec.ofInt 8 offset
  let t := fetchByte op s
  let target := t.pc + sext16 op
  ⟨target, page t.pc != page target, t⟩

/-- A read-class operand (R95): one `MemRead(ea, 1)`. For mode IMM that read is the fetch of the operand byte (R83), which
the decoded instruction carries (log entry 7). -/
def readOperand (o : Operand) (s : State) : Byte × State :=
  let r := resolve o .read s
  match o with
  | .imm op => (op, r.after.cycle (.read r.ea op))
  | .zp _ | .zpx _ | .zpy _ | .abs _ | .absx _ | .absy _ | .izx _ | .izy _ => memRead r.ea r.after

/-- A write-class operand (R95): one `MemWrite(ea, 1, v)`. -/
def writeOperand (o : Operand) (v : Byte) (s : State) : State :=
  let r := resolve o .write s
  memWrite r.ea v r.after

/-- An rmw-class operand (R61, R95): read, dummy write of the old value, real write; `f` gives the new value and flags. -/
def modifyOperand (f : Byte → Flags → Byte × Flags) (o : Operand) (s : State) : State :=
  let r := resolve o .rmw s
  let old := memRead r.ea r.after
  let new := f old.1 s.p
  (memWrite r.ea new.1 (memWrite r.ea old.1 old.2)).setP new.2

/-- An instruction on the accumulator, mode ACC (R82): one idle cycle, no bus access. -/
def modifyAccumulator (f : Byte → Flags → Byte × Flags) (s : State) : State :=
  let new := f s.a s.p
  ((idle s).setA new.1).setP new.2

end Sys2Proof.Machine
end

