-- ==== Sys2Proof/Machine/Arithmetic.lean ====
section
/-! DEFINITION. ADC and SBC in binary and decimal mode (43_arithmetic.md R140 to R143). -/

namespace Sys2Proof.Machine

open Sys2Proof

/-- ADC (R140, R141). -/
def adc (o : Operand) (s : State) : State :=
  let m := readOperand o s
  let r := adcResult s.a m.1 s.p
  (m.2.setA r.1).setP r.2

/-- SBC (R142, R143). -/
def sbc (o : Operand) (s : State) : State :=
  let m := readOperand o s
  let r := sbcResult s.a m.1 s.p
  (m.2.setA r.1).setP r.2

/-! The meanings, one for each row of the opcode table. -/

/-- `ADC ($nn,X)` (R140). -/
def execAdcIzx (op : Byte) (s : State) : Host.Outcome State Fault Refusal := .next (adc (.izx op) s)

/-- `ADC $nn` (R140). -/
def execAdcZp (op : Byte) (s : State) : Host.Outcome State Fault Refusal := .next (adc (.zp op) s)

/-- `ADC #$nn` (R140). -/
def execAdcImm (op : Byte) (s : State) : Host.Outcome State Fault Refusal := .next (adc (.imm op) s)

/-- `ADC $nnnn` (R140). -/
def execAdcAbs (addr : Word) (s : State) : Host.Outcome State Fault Refusal := .next (adc (.abs addr) s)

/-- `ADC ($nn),Y` (R140). -/
def execAdcIzy (op : Byte) (s : State) : Host.Outcome State Fault Refusal := .next (adc (.izy op) s)

/-- `ADC $nn,X` (R140). -/
def execAdcZpx (op : Byte) (s : State) : Host.Outcome State Fault Refusal := .next (adc (.zpx op) s)

/-- `ADC $nnnn,Y` (R140). -/
def execAdcAbsy (addr : Word) (s : State) : Host.Outcome State Fault Refusal := .next (adc (.absy addr) s)

/-- `ADC $nnnn,X` (R140). -/
def execAdcAbsx (addr : Word) (s : State) : Host.Outcome State Fault Refusal := .next (adc (.absx addr) s)

/-- `SBC ($nn,X)` (R142). -/
def execSbcIzx (op : Byte) (s : State) : Host.Outcome State Fault Refusal := .next (sbc (.izx op) s)

/-- `SBC $nn` (R142). -/
def execSbcZp (op : Byte) (s : State) : Host.Outcome State Fault Refusal := .next (sbc (.zp op) s)

/-- `SBC #$nn` (R142). -/
def execSbcImm (op : Byte) (s : State) : Host.Outcome State Fault Refusal := .next (sbc (.imm op) s)

/-- `SBC $nnnn` (R142). -/
def execSbcAbs (addr : Word) (s : State) : Host.Outcome State Fault Refusal := .next (sbc (.abs addr) s)

/-- `SBC ($nn),Y` (R142). -/
def execSbcIzy (op : Byte) (s : State) : Host.Outcome State Fault Refusal := .next (sbc (.izy op) s)

/-- `SBC $nn,X` (R142). -/
def execSbcZpx (op : Byte) (s : State) : Host.Outcome State Fault Refusal := .next (sbc (.zpx op) s)

/-- `SBC $nnnn,Y` (R142). -/
def execSbcAbsy (addr : Word) (s : State) : Host.Outcome State Fault Refusal := .next (sbc (.absy addr) s)

/-- `SBC $nnnn,X` (R142). -/
def execSbcAbsx (addr : Word) (s : State) : Host.Outcome State Fault Refusal := .next (sbc (.absx addr) s)

end Sys2Proof.Machine
end

