-- ==== Sys2Proof/Machine/Compare.lean ====
section
/-! DEFINITION. Compares and bit test (46_compare_bit.md R170 to R173). No register changes. -/

namespace Sys2Proof.Machine

open Sys2Proof

/-- CMP, CPX, CPY (R170 to R172) of a register's value with memory. -/
def compareWith (reg : Byte) (o : Operand) (s : State) : State :=
  let m := readOperand o s
  m.2.setP (compareFlags reg m.1 s.p)

/-- BIT (R173). -/
def bitTest (o : Operand) (s : State) : State :=
  let m := readOperand o s
  m.2.setP (bitFlags s.a m.1 s.p)

/-! The meanings, one for each row of the opcode table. -/

/-- `CMP ($nn,X)` (R170). -/
def execCmpIzx (op : Byte) (s : State) : Host.Outcome State Fault Refusal := .next (compareWith s.a (.izx op) s)

/-- `CMP $nn` (R170). -/
def execCmpZp (op : Byte) (s : State) : Host.Outcome State Fault Refusal := .next (compareWith s.a (.zp op) s)

/-- `CMP #$nn` (R170). -/
def execCmpImm (op : Byte) (s : State) : Host.Outcome State Fault Refusal := .next (compareWith s.a (.imm op) s)

/-- `CMP $nnnn` (R170). -/
def execCmpAbs (addr : Word) (s : State) : Host.Outcome State Fault Refusal := .next (compareWith s.a (.abs addr) s)

/-- `CMP ($nn),Y` (R170). -/
def execCmpIzy (op : Byte) (s : State) : Host.Outcome State Fault Refusal := .next (compareWith s.a (.izy op) s)

/-- `CMP $nn,X` (R170). -/
def execCmpZpx (op : Byte) (s : State) : Host.Outcome State Fault Refusal := .next (compareWith s.a (.zpx op) s)

/-- `CMP $nnnn,Y` (R170). -/
def execCmpAbsy (addr : Word) (s : State) : Host.Outcome State Fault Refusal := .next (compareWith s.a (.absy addr) s)

/-- `CMP $nnnn,X` (R170). -/
def execCmpAbsx (addr : Word) (s : State) : Host.Outcome State Fault Refusal := .next (compareWith s.a (.absx addr) s)

/-- `CPX #$nn` (R171). -/
def execCpxImm (op : Byte) (s : State) : Host.Outcome State Fault Refusal := .next (compareWith s.x (.imm op) s)

/-- `CPX $nn` (R171). -/
def execCpxZp (op : Byte) (s : State) : Host.Outcome State Fault Refusal := .next (compareWith s.x (.zp op) s)

/-- `CPX $nnnn` (R171). -/
def execCpxAbs (addr : Word) (s : State) : Host.Outcome State Fault Refusal := .next (compareWith s.x (.abs addr) s)

/-- `CPY #$nn` (R172). -/
def execCpyImm (op : Byte) (s : State) : Host.Outcome State Fault Refusal := .next (compareWith s.y (.imm op) s)

/-- `CPY $nn` (R172). -/
def execCpyZp (op : Byte) (s : State) : Host.Outcome State Fault Refusal := .next (compareWith s.y (.zp op) s)

/-- `CPY $nnnn` (R172). -/
def execCpyAbs (addr : Word) (s : State) : Host.Outcome State Fault Refusal := .next (compareWith s.y (.abs addr) s)

/-- `BIT $nn` (R173). -/
def execBitZp (op : Byte) (s : State) : Host.Outcome State Fault Refusal := .next (bitTest (.zp op) s)

/-- `BIT $nnnn` (R173). -/
def execBitAbs (addr : Word) (s : State) : Host.Outcome State Fault Refusal := .next (bitTest (.abs addr) s)

end Sys2Proof.Machine
end

