-- ==== Sys2Proof/Machine/Control.lean ====
section
/-! DEFINITION. Branches, JMP, JSR, RTS (47_control_flow.md R180 to R191). -/

namespace Sys2Proof.Machine

open Sys2Proof

/-- `Branch(cond)` (R180): the operand byte is fetched either way; a taken branch has one idle cycle, and one more when the
target is in another page than the address after the branch. -/
def branch (cond : Bool) (offset : Int) (s : State) : State :=
  let r := resolveRelative offset s
  if cond then
    (if r.crossed then idle (idle r.after) else idle r.after).setPc r.ea
  else r.after

/-- JMP indirect (R189, R90). -/
def jumpIndirect (ptr : Word) (s : State) : State :=
  let r := resolveIndirect ptr s
  r.after.setPc r.ea

/-- JSR (R190): the low byte of the target is fetched, then `PC = pc0 + 2` is pushed, high then low, and only then is the
third byte read, from memory as the pushes have left it (20_memory.md R63). The high byte of `target` is what stood
there when the instruction was decoded (log entry 7). -/
def jumpToSubroutine (target : Word) (s : State) : State :=
  let t := idle (fetchByte (loByte target) s)
  let u := push (loByte t.pc) (push (hiByte t.pc) t)
  let hi := memRead u.pc u
  hi.2.setPc (word (loByte target) hi.1)

/-- RTS (R191): "RTS pulls and adds 1." -/
def returnFromSubroutine (s : State) : State :=
  let lo := pull (idle (idle s))
  let hi := pull lo.2
  (idle hi.2).setPc (word lo.1 hi.1 + 1)

/-! The meanings, one for each row of the opcode table. -/

/-- `BPL target` (R181). -/
def execBpl (offset : Int) (s : State) : Host.Outcome State Fault Refusal := .next (branch (!s.p.n) offset s)

/-- `BMI target` (R182). -/
def execBmi (offset : Int) (s : State) : Host.Outcome State Fault Refusal := .next (branch s.p.n offset s)

/-- `BVC target` (R183). -/
def execBvc (offset : Int) (s : State) : Host.Outcome State Fault Refusal := .next (branch (!s.p.v) offset s)

/-- `BVS target` (R184). -/
def execBvs (offset : Int) (s : State) : Host.Outcome State Fault Refusal := .next (branch s.p.v offset s)

/-- `BCC target` (R185). -/
def execBcc (offset : Int) (s : State) : Host.Outcome State Fault Refusal := .next (branch (!s.p.c) offset s)

/-- `BCS target` (R186). -/
def execBcs (offset : Int) (s : State) : Host.Outcome State Fault Refusal := .next (branch s.p.c offset s)

/-- `BNE target` (R187). -/
def execBne (offset : Int) (s : State) : Host.Outcome State Fault Refusal := .next (branch (!s.p.z) offset s)

/-- `BEQ target` (R188). -/
def execBeq (offset : Int) (s : State) : Host.Outcome State Fault Refusal := .next (branch s.p.z offset s)

/-- `JMP $nnnn` (R189). -/
def execJmpAbs (addr : Word) (s : State) : Host.Outcome State Fault Refusal := .next ((fetchWord addr s).setPc addr)

/-- `JMP ($nnnn)` (R189). -/
def execJmpInd (addr : Word) (s : State) : Host.Outcome State Fault Refusal := .next (jumpIndirect addr s)

/-- `JSR $nnnn` (R190). -/
def execJsr (addr : Word) (s : State) : Host.Outcome State Fault Refusal := .next (jumpToSubroutine addr s)

/-- `RTS` (R191). -/
def execRts (s : State) : Host.Outcome State Fault Refusal := .next (returnFromSubroutine s)

end Sys2Proof.Machine
end

