-- ==== Sys2Proof/Machine/IncDec.lean ====
section
/-! DEFINITION. Increments and decrements of memory and of X and Y (44_logic_incdec.md R153 to R158). -/

namespace Sys2Proof.Machine

open Sys2Proof

/-- INC (R153). -/
def inc (o : Operand) (s : State) : State := modifyOperand incResult o s

/-- DEC (R154). -/
def dec (o : Operand) (s : State) : State := modifyOperand decResult o s

/-! The meanings, one for each row of the opcode table. -/

/-- `INC $nn` (R153). -/
def execIncZp (op : Byte) (s : State) : Host.Outcome State Fault Refusal := .next (inc (.zp op) s)

/-- `INC $nnnn` (R153). -/
def execIncAbs (addr : Word) (s : State) : Host.Outcome State Fault Refusal := .next (inc (.abs addr) s)

/-- `INC $nn,X` (R153). -/
def execIncZpx (op : Byte) (s : State) : Host.Outcome State Fault Refusal := .next (inc (.zpx op) s)

/-- `INC $nnnn,X` (R153). -/
def execIncAbsx (addr : Word) (s : State) : Host.Outcome State Fault Refusal := .next (inc (.absx addr) s)

/-- `DEC $nn` (R154). -/
def execDecZp (op : Byte) (s : State) : Host.Outcome State Fault Refusal := .next (dec (.zp op) s)

/-- `DEC $nnnn` (R154). -/
def execDecAbs (addr : Word) (s : State) : Host.Outcome State Fault Refusal := .next (dec (.abs addr) s)

/-- `DEC $nn,X` (R154). -/
def execDecZpx (op : Byte) (s : State) : Host.Outcome State Fault Refusal := .next (dec (.zpx op) s)

/-- `DEC $nnnn,X` (R154). -/
def execDecAbsx (addr : Word) (s : State) : Host.Outcome State Fault Refusal := .next (dec (.absx addr) s)

/-- `INX` (R155). -/
def execInx (s : State) : Host.Outcome State Fault Refusal := .next (((idle s).setX (s.x + 1)).setZN (s.x + 1))

/-- `INY` (R156). -/
def execIny (s : State) : Host.Outcome State Fault Refusal := .next (((idle s).setY (s.y + 1)).setZN (s.y + 1))

/-- `DEX` (R157). -/
def execDex (s : State) : Host.Outcome State Fault Refusal := .next (((idle s).setX (s.x - 1)).setZN (s.x - 1))

/-- `DEY` (R158). -/
def execDey (s : State) : Host.Outcome State Fault Refusal := .next (((idle s).setY (s.y - 1)).setZN (s.y - 1))

end Sys2Proof.Machine
end

