-- ==== Sys2Proof/Machine/LoadStore.lean ====
section
/-! DEFINITION. Load and store instructions (41_load_store.md R120 to R125). -/

namespace Sys2Proof.Machine

open Sys2Proof

/-- LDA (R120). -/
def lda (o : Operand) (s : State) : State :=
  let m := readOperand o s
  (m.2.setA m.1).setZN m.1

/-- LDX (R121). -/
def ldx (o : Operand) (s : State) : State :=
  let m := readOperand o s
  (m.2.setX m.1).setZN m.1

/-- LDY (R122). -/
def ldy (o : Operand) (s : State) : State :=
  let m := readOperand o s
  (m.2.setY m.1).setZN m.1

/-- STA (R123): flags untouched. -/
def sta (o : Operand) (s : State) : State := writeOperand o s.a s

/-- STX (R124): flags untouched. -/
def stx (o : Operand) (s : State) : State := writeOperand o s.x s

/-- STY (R125): flags untouched. -/
def sty (o : Operand) (s : State) : State := writeOperand o s.y s

/-! The meanings, one for each row of the opcode table. -/

/-- `LDA ($nn,X)` (R120). -/
def execLdaIzx (op : Byte) (s : State) : Host.Outcome State Fault Refusal := .next (lda (.izx op) s)

/-- `LDA $nn` (R120). -/
def execLdaZp (op : Byte) (s : State) : Host.Outcome State Fault Refusal := .next (lda (.zp op) s)

/-- `LDA #$nn` (R120). -/
def execLdaImm (op : Byte) (s : State) : Host.Outcome State Fault Refusal := .next (lda (.imm op) s)

/-- `LDA $nnnn` (R120). -/
def execLdaAbs (addr : Word) (s : State) : Host.Outcome State Fault Refusal := .next (lda (.abs addr) s)

/-- `LDA ($nn),Y` (R120). -/
def execLdaIzy (op : Byte) (s : State) : Host.Outcome State Fault Refusal := .next (lda (.izy op) s)

/-- `LDA $nn,X` (R120). -/
def execLdaZpx (op : Byte) (s : State) : Host.Outcome State Fault Refusal := .next (lda (.zpx op) s)

/-- `LDA $nnnn,Y` (R120). -/
def execLdaAbsy (addr : Word) (s : State) : Host.Outcome State Fault Refusal := .next (lda (.absy addr) s)

/-- `LDA $nnnn,X` (R120). -/
def execLdaAbsx (addr : Word) (s : State) : Host.Outcome State Fault Refusal := .next (lda (.absx addr) s)

/-- `LDX #$nn` (R121). -/
def execLdxImm (op : Byte) (s : State) : Host.Outcome State Fault Refusal := .next (ldx (.imm op) s)

/-- `LDX $nn` (R121). -/
def execLdxZp (op : Byte) (s : State) : Host.Outcome State Fault Refusal := .next (ldx (.zp op) s)

/-- `LDX $nnnn` (R121). -/
def execLdxAbs (addr : Word) (s : State) : Host.Outcome State Fault Refusal := .next (ldx (.abs addr) s)

/-- `LDX $nn,Y` (R121). -/
def execLdxZpy (op : Byte) (s : State) : Host.Outcome State Fault Refusal := .next (ldx (.zpy op) s)

/-- `LDX $nnnn,Y` (R121). -/
def execLdxAbsy (addr : Word) (s : State) : Host.Outcome State Fault Refusal := .next (ldx (.absy addr) s)

/-- `LDY #$nn` (R122). -/
def execLdyImm (op : Byte) (s : State) : Host.Outcome State Fault Refusal := .next (ldy (.imm op) s)

/-- `LDY $nn` (R122). -/
def execLdyZp (op : Byte) (s : State) : Host.Outcome State Fault Refusal := .next (ldy (.zp op) s)

/-- `LDY $nnnn` (R122). -/
def execLdyAbs (addr : Word) (s : State) : Host.Outcome State Fault Refusal := .next (ldy (.abs addr) s)

/-- `LDY $nn,X` (R122). -/
def execLdyZpx (op : Byte) (s : State) : Host.Outcome State Fault Refusal := .next (ldy (.zpx op) s)

/-- `LDY $nnnn,X` (R122). -/
def execLdyAbsx (addr : Word) (s : State) : Host.Outcome State Fault Refusal := .next (ldy (.absx addr) s)

/-- `STA ($nn,X)` (R123). -/
def execStaIzx (op : Byte) (s : State) : Host.Outcome State Fault Refusal := .next (sta (.izx op) s)

/-- `STA $nn` (R123). -/
def execStaZp (op : Byte) (s : State) : Host.Outcome State Fault Refusal := .next (sta (.zp op) s)

/-- `STA $nnnn` (R123). -/
def execStaAbs (addr : Word) (s : State) : Host.Outcome State Fault Refusal := .next (sta (.abs addr) s)

/-- `STA ($nn),Y` (R123). -/
def execStaIzy (op : Byte) (s : State) : Host.Outcome State Fault Refusal := .next (sta (.izy op) s)

/-- `STA $nn,X` (R123). -/
def execStaZpx (op : Byte) (s : State) : Host.Outcome State Fault Refusal := .next (sta (.zpx op) s)

/-- `STA $nnnn,Y` (R123). -/
def execStaAbsy (addr : Word) (s : State) : Host.Outcome State Fault Refusal := .next (sta (.absy addr) s)

/-- `STA $nnnn,X` (R123). -/
def execStaAbsx (addr : Word) (s : State) : Host.Outcome State Fault Refusal := .next (sta (.absx addr) s)

/-- `STX $nn` (R124). -/
def execStxZp (op : Byte) (s : State) : Host.Outcome State Fault Refusal := .next (stx (.zp op) s)

/-- `STX $nnnn` (R124). -/
def execStxAbs (addr : Word) (s : State) : Host.Outcome State Fault Refusal := .next (stx (.abs addr) s)

/-- `STX $nn,Y` (R124). -/
def execStxZpy (op : Byte) (s : State) : Host.Outcome State Fault Refusal := .next (stx (.zpy op) s)

/-- `STY $nn` (R125). -/
def execStyZp (op : Byte) (s : State) : Host.Outcome State Fault Refusal := .next (sty (.zp op) s)

/-- `STY $nnnn` (R125). -/
def execStyAbs (addr : Word) (s : State) : Host.Outcome State Fault Refusal := .next (sty (.abs addr) s)

/-- `STY $nn,X` (R125). -/
def execStyZpx (op : Byte) (s : State) : Host.Outcome State Fault Refusal := .next (sty (.zpx op) s)

end Sys2Proof.Machine
end

