-- ==== Sys2Proof/Machine/Logic.lean ====
section
/-! DEFINITION. AND, ORA, EOR (44_logic_incdec.md R150 to R152). -/

namespace Sys2Proof.Machine

open Sys2Proof

/-- The common part of AND, ORA, EOR: the accumulator takes the result, SetZN. -/
def logicWith (f : Byte → Byte → Byte) (o : Operand) (s : State) : State :=
  let m := readOperand o s
  (m.2.setA (f s.a m.1)).setZN (f s.a m.1)

/-- AND (R150). -/
def andOp (o : Operand) (s : State) : State := logicWith (fun a m => a &&& m) o s

/-- ORA (R151). -/
def oraOp (o : Operand) (s : State) : State := logicWith (fun a m => a ||| m) o s

/-- EOR (R152). -/
def eorOp (o : Operand) (s : State) : State := logicWith (fun a m => a ^^^ m) o s

/-! The meanings, one for each row of the opcode table. -/

/-- `AND ($nn,X)` (R150). -/
def execAndIzx (op : Byte) (s : State) : Host.Outcome State Fault Refusal := .next (andOp (.izx op) s)

/-- `AND $nn` (R150). -/
def execAndZp (op : Byte) (s : State) : Host.Outcome State Fault Refusal := .next (andOp (.zp op) s)

/-- `AND #$nn` (R150). -/
def execAndImm (op : Byte) (s : State) : Host.Outcome State Fault Refusal := .next (andOp (.imm op) s)

/-- `AND $nnnn` (R150). -/
def execAndAbs (addr : Word) (s : State) : Host.Outcome State Fault Refusal := .next (andOp (.abs addr) s)

/-- `AND ($nn),Y` (R150). -/
def execAndIzy (op : Byte) (s : State) : Host.Outcome State Fault Refusal := .next (andOp (.izy op) s)

/-- `AND $nn,X` (R150). -/
def execAndZpx (op : Byte) (s : State) : Host.Outcome State Fault Refusal := .next (andOp (.zpx op) s)

/-- `AND $nnnn,Y` (R150). -/
def execAndAbsy (addr : Word) (s : State) : Host.Outcome State Fault Refusal := .next (andOp (.absy addr) s)

/-- `AND $nnnn,X` (R150). -/
def execAndAbsx (addr : Word) (s : State) : Host.Outcome State Fault Refusal := .next (andOp (.absx addr) s)

/-- `ORA ($nn,X)` (R151). -/
def execOraIzx (op : Byte) (s : State) : Host.Outcome State Fault Refusal := .next (oraOp (.izx op) s)

/-- `ORA $nn` (R151). -/
def execOraZp (op : Byte) (s : State) : Host.Outcome State Fault Refusal := .next (oraOp (.zp op) s)

/-- `ORA #$nn` (R151). -/
def execOraImm (op : Byte) (s : State) : Host.Outcome State Fault Refusal := .next (oraOp (.imm op) s)

/-- `ORA $nnnn` (R151). -/
def execOraAbs (addr : Word) (s : State) : Host.Outcome State Fault Refusal := .next (oraOp (.abs addr) s)

/-- `ORA ($nn),Y` (R151). -/
def execOraIzy (op : Byte) (s : State) : Host.Outcome State Fault Refusal := .next (oraOp (.izy op) s)

/-- `ORA $nn,X` (R151). -/
def execOraZpx (op : Byte) (s : State) : Host.Outcome State Fault Refusal := .next (oraOp (.zpx op) s)

/-- `ORA $nnnn,Y` (R151). -/
def execOraAbsy (addr : Word) (s : State) : Host.Outcome State Fault Refusal := .next (oraOp (.absy addr) s)

/-- `ORA $nnnn,X` (R151). -/
def execOraAbsx (addr : Word) (s : State) : Host.Outcome State Fault Refusal := .next (oraOp (.absx addr) s)

/-- `EOR ($nn,X)` (R152). -/
def execEorIzx (op : Byte) (s : State) : Host.Outcome State Fault Refusal := .next (eorOp (.izx op) s)

/-- `EOR $nn` (R152). -/
def execEorZp (op : Byte) (s : State) : Host.Outcome State Fault Refusal := .next (eorOp (.zp op) s)

/-- `EOR #$nn` (R152). -/
def execEorImm (op : Byte) (s : State) : Host.Outcome State Fault Refusal := .next (eorOp (.imm op) s)

/-- `EOR $nnnn` (R152). -/
def execEorAbs (addr : Word) (s : State) : Host.Outcome State Fault Refusal := .next (eorOp (.abs addr) s)

/-- `EOR ($nn),Y` (R152). -/
def execEorIzy (op : Byte) (s : State) : Host.Outcome State Fault Refusal := .next (eorOp (.izy op) s)

/-- `EOR $nn,X` (R152). -/
def execEorZpx (op : Byte) (s : State) : Host.Outcome State Fault Refusal := .next (eorOp (.zpx op) s)

/-- `EOR $nnnn,Y` (R152). -/
def execEorAbsy (addr : Word) (s : State) : Host.Outcome State Fault Refusal := .next (eorOp (.absy addr) s)

/-- `EOR $nnnn,X` (R152). -/
def execEorAbsx (addr : Word) (s : State) : Host.Outcome State Fault Refusal := .next (eorOp (.absx addr) s)

end Sys2Proof.Machine
end

