-- ==== Sys2Proof/Machine/Shifts.lean ====
section
/-! DEFINITION. Shifts and rotates on the accumulator or on memory (45_shifts.md R160 to R163). -/

namespace Sys2Proof.Machine

open Sys2Proof


/-! The meanings, one for each row of the opcode table. -/

/-- `ASL $nn` (R160). -/
def execAslZp (op : Byte) (s : State) : Host.Outcome State Fault Refusal := .next (modifyOperand aslResult (.zp op) s)

/-- `ASL A` (R160). -/
def execAslAcc (s : State) : Host.Outcome State Fault Refusal := .next (modifyAccumulator aslResult s)

/-- `ASL $nnnn` (R160). -/
def execAslAbs (addr : Word) (s : State) : Host.Outcome State Fault Refusal := .next (modifyOperand aslResult (.abs addr) s)

/-- `ASL $nn,X` (R160). -/
def execAslZpx (op : Byte) (s : State) : Host.Outcome State Fault Refusal := .next (modifyOperand aslResult (.zpx op) s)

/-- `ASL $nnnn,X` (R160). -/
def execAslAbsx (addr : Word) (s : State) : Host.Outcome State Fault Refusal := .next (modifyOperand aslResult (.absx addr) s)

/-- `LSR $nn` (R161). -/
def execLsrZp (op : Byte) (s : State) : Host.Outcome State Fault Refusal := .next (modifyOperand lsrResult (.zp op) s)

/-- `LSR A` (R161). -/
def execLsrAcc (s : State) : Host.Outcome State Fault Refusal := .next (modifyAccumulator lsrResult s)

/-- `LSR $nnnn` (R161). -/
def execLsrAbs (addr : Word) (s : State) : Host.Outcome State Fault Refusal := .next (modifyOperand lsrResult (.abs addr) s)

/-- `LSR $nn,X` (R161). -/
def execLsrZpx (op : Byte) (s : State) : Host.Outcome State Fault Refusal := .next (modifyOperand lsrResult (.zpx op) s)

/-- `LSR $nnnn,X` (R161). -/
def execLsrAbsx (addr : Word) (s : State) : Host.Outcome State Fault Refusal := .next (modifyOperand lsrResult (.absx addr) s)

/-- `ROL $nn` (R162). -/
def execRolZp (op : Byte) (s : State) : Host.Outcome State Fault Refusal := .next (modifyOperand rolResult (.zp op) s)

/-- `ROL A` (R162). -/
def execRolAcc (s : State) : Host.Outcome State Fault Refusal := .next (modifyAccumulator rolResult s)

/-- `ROL $nnnn` (R162). -/
def execRolAbs (addr : Word) (s : State) : Host.Outcome State Fault Refusal := .next (modifyOperand rolResult (.abs addr) s)

/-- `ROL $nn,X` (R162). -/
def execRolZpx (op : Byte) (s : State) : Host.Outcome State Fault Refusal := .next (modifyOperand rolResult (.zpx op) s)

/-- `ROL $nnnn,X` (R162). -/
def execRolAbsx (addr : Word) (s : State) : Host.Outcome State Fault Refusal := .next (modifyOperand rolResult (.absx addr) s)

/-- `ROR $nn` (R163). -/
def execRorZp (op : Byte) (s : State) : Host.Outcome State Fault Refusal := .next (modifyOperand rorResult (.zp op) s)

/-- `ROR A` (R163). -/
def execRorAcc (s : State) : Host.Outcome State Fault Refusal := .next (modifyAccumulator rorResult s)

/-- `ROR $nnnn` (R163). -/
def execRorAbs (addr : Word) (s : State) : Host.Outcome State Fault Refusal := .next (modifyOperand rorResult (.abs addr) s)

/-- `ROR $nn,X` (R163). -/
def execRorZpx (op : Byte) (s : State) : Host.Outcome State Fault Refusal := .next (modifyOperand rorResult (.zpx op) s)

/-- `ROR $nnnn,X` (R163). -/
def execRorAbsx (addr : Word) (s : State) : Host.Outcome State Fault Refusal := .next (modifyOperand rorResult (.absx addr) s)

end Sys2Proof.Machine
end

