-- ==== Sys2Proof/Machine/StackFlags.lean ====
section
/-! DEFINITION. Stack and flag instructions and NOP (48_stack_flags_nop.md R200 to R211). -/

namespace Sys2Proof.Machine

open Sys2Proof

/-- PLA (R201): two idle cycles, then the pull; "PLA sets N,Z". -/
def pullA (s : State) : State :=
  let v := pull (idle (idle s))
  (v.2.setA v.1).setZN v.1

/-- PLP (R203): two idle cycles, then the pull; all six flags from the byte. -/
def pullP (s : State) : State :=
  let v := pull (idle (idle s))
  v.2.setP (Flags.unpack v.1)

/-! The meanings, one for each row of the opcode table. -/

/-- `PHA` (R200). -/
def execPha (s : State) : Host.Outcome State Fault Refusal := .next (push s.a (idle s))

/-- `PLA` (R201). -/
def execPla (s : State) : Host.Outcome State Fault Refusal := .next (pullA s)

/-- `PHP` (R202). -/
def execPhp (s : State) : Host.Outcome State Fault Refusal := .next (push s.p.packPhp (idle s))

/-- `PLP` (R203). -/
def execPlp (s : State) : Host.Outcome State Fault Refusal := .next (pullP s)

/-- `CLC` (R204). -/
def execClc (s : State) : Host.Outcome State Fault Refusal := .next ((idle s).setP { s.p with c := false })

/-- `SEC` (R205). -/
def execSec (s : State) : Host.Outcome State Fault Refusal := .next ((idle s).setP { s.p with c := true })

/-- `CLD` (R206). -/
def execCld (s : State) : Host.Outcome State Fault Refusal := .next ((idle s).setP { s.p with d := false })

/-- `SED` (R207). -/
def execSed (s : State) : Host.Outcome State Fault Refusal := .next ((idle s).setP { s.p with d := true })

/-- `CLI` (R208). -/
def execCli (s : State) : Host.Outcome State Fault Refusal := .next ((idle s).setP { s.p with i := false })

/-- `SEI` (R209). -/
def execSei (s : State) : Host.Outcome State Fault Refusal := .next ((idle s).setP { s.p with i := true })

/-- `CLV` (R210). -/
def execClv (s : State) : Host.Outcome State Fault Refusal := .next ((idle s).setP { s.p with v := false })

/-- `NOP` (R211). -/
def execNop (s : State) : Host.Outcome State Fault Refusal := .next (idle s)

end Sys2Proof.Machine
end

