-- ==== Sys2Proof/Machine/System.lean ====
section
/-! DEFINITION. BRK and RTI (49_brk_rti.md R220, R221), over the shared entry and return of `Machine/Ops.lean`. -/

namespace Sys2Proof.Machine

open Sys2Proof


/-! The meanings, one for each row of the opcode table. -/

/-- `BRK` (R220). -/
def execBrk (s : State) : Host.Outcome State Fault Refusal := .next (brkEntry s)

/-- `RTI` (R221). -/
def execRti (s : State) : Host.Outcome State Fault Refusal := .next (returnFromInterrupt s)

end Sys2Proof.Machine
end

