-- ==== Sys2Proof/Machine/Transfers.lean ====
section
/-! DEFINITION. Register transfers (42_transfers.md R130 to R135). Each is one idle cycle after the opcode fetch; TXS alone leaves
the flags untouched. -/

namespace Sys2Proof.Machine

open Sys2Proof


/-! The meanings, one for each row of the opcode table. -/

/-- `TAX` (R130). -/
def execTax (s : State) : Host.Outcome State Fault Refusal := .next (((idle s).setX s.a).setZN s.a)

/-- `TAY` (R131). -/
def execTay (s : State) : Host.Outcome State Fault Refusal := .next (((idle s).setY s.a).setZN s.a)

/-- `TSX` (R132). -/
def execTsx (s : State) : Host.Outcome State Fault Refusal := .next (((idle s).setX s.sp).setZN s.sp)

/-- `TXA` (R133). -/
def execTxa (s : State) : Host.Outcome State Fault Refusal := .next (((idle s).setA s.x).setZN s.x)

/-- `TYA` (R134). -/
def execTya (s : State) : Host.Outcome State Fault Refusal := .next (((idle s).setA s.y).setZN s.y)

/-- `TXS` (R135). -/
def execTxs (s : State) : Host.Outcome State Fault Refusal := .next ((idle s).setSp s.x)

end Sys2Proof.Machine
end

