-- ==== Sys2Proof/Machine/Dispatch.lean ====
section
/-! DEFINITION. The dispatcher: one arm for each constructor of `Instr` (60_exceptions.md R230, "run the rule of
`mnemonic` with `mode`"). `exec i s` runs the rule of `i` on the state after the opcode fetch, when `PC = pc0 + 1`. -/

namespace Sys2Proof.Machine

open Sys2Proof

def exec (i : Instr) (s : State) : Host.Outcome State Fault Refusal :=
  match i with
  | .brk => Sys2Proof.Machine.execBrk s
  | .oraIzx op => Sys2Proof.Machine.execOraIzx op s
  | .oraZp op => Sys2Proof.Machine.execOraZp op s
  | .aslZp op => Sys2Proof.Machine.execAslZp op s
  | .php => Sys2Proof.Machine.execPhp s
  | .oraImm op => Sys2Proof.Machine.execOraImm op s
  | .aslAcc => Sys2Proof.Machine.execAslAcc s
  | .oraAbs addr => Sys2Proof.Machine.execOraAbs addr s
  | .aslAbs addr => Sys2Proof.Machine.execAslAbs addr s
  | .bpl offset => Sys2Proof.Machine.execBpl offset s
  | .oraIzy op => Sys2Proof.Machine.execOraIzy op s
  | .oraZpx op => Sys2Proof.Machine.execOraZpx op s
  | .aslZpx op => Sys2Proof.Machine.execAslZpx op s
  | .clc => Sys2Proof.Machine.execClc s
  | .oraAbsy addr => Sys2Proof.Machine.execOraAbsy addr s
  | .oraAbsx addr => Sys2Proof.Machine.execOraAbsx addr s
  | .aslAbsx addr => Sys2Proof.Machine.execAslAbsx addr s
  | .jsr addr => Sys2Proof.Machine.execJsr addr s
  | .andIzx op => Sys2Proof.Machine.execAndIzx op s
  | .bitZp op => Sys2Proof.Machine.execBitZp op s
  | .andZp op => Sys2Proof.Machine.execAndZp op s
  | .rolZp op => Sys2Proof.Machine.execRolZp op s
  | .plp => Sys2Proof.Machine.execPlp s
  | .andImm op => Sys2Proof.Machine.execAndImm op s
  | .rolAcc => Sys2Proof.Machine.execRolAcc s
  | .bitAbs addr => Sys2Proof.Machine.execBitAbs addr s
  | .andAbs addr => Sys2Proof.Machine.execAndAbs addr s
  | .rolAbs addr => Sys2Proof.Machine.execRolAbs addr s
  | .bmi offset => Sys2Proof.Machine.execBmi offset s
  | .andIzy op => Sys2Proof.Machine.execAndIzy op s
  | .andZpx op => Sys2Proof.Machine.execAndZpx op s
  | .rolZpx op => Sys2Proof.Machine.execRolZpx op s
  | .sec => Sys2Proof.Machine.execSec s
  | .andAbsy addr => Sys2Proof.Machine.execAndAbsy addr s
  | .andAbsx addr => Sys2Proof.Machine.execAndAbsx addr s
  | .rolAbsx addr => Sys2Proof.Machine.execRolAbsx addr s
  | .rti => Sys2Proof.Machine.execRti s
  | .eorIzx op => Sys2Proof.Machine.execEorIzx op s
  | .eorZp op => Sys2Proof.Machine.execEorZp op s
  | .lsrZp op => Sys2Proof.Machine.execLsrZp op s
  | .pha => Sys2Proof.Machine.execPha s
  | .eorImm op => Sys2Proof.Machine.execEorImm op s
  | .lsrAcc => Sys2Proof.Machine.execLsrAcc s
  | .jmpAbs addr => Sys2Proof.Machine.execJmpAbs addr s
  | .eorAbs addr => Sys2Proof.Machine.execEorAbs addr s
  | .lsrAbs addr => Sys2Proof.Machine.execLsrAbs addr s
  | .bvc offset => Sys2Proof.Machine.execBvc offset s
  | .eorIzy op => Sys2Proof.Machine.execEorIzy op s
  | .eorZpx op => Sys2Proof.Machine.execEorZpx op s
  | .lsrZpx op => Sys2Proof.Machine.execLsrZpx op s
  | .cli => Sys2Proof.Machine.execCli s
  | .eorAbsy addr => Sys2Proof.Machine.execEorAbsy addr s
  | .eorAbsx addr => Sys2Proof.Machine.execEorAbsx addr s
  | .lsrAbsx addr => Sys2Proof.Machine.execLsrAbsx addr s
  | .rts => Sys2Proof.Machine.execRts s
  | .adcIzx op => Sys2Proof.Machine.execAdcIzx op s
  | .adcZp op => Sys2Proof.Machine.execAdcZp op s
  | .rorZp op => Sys2Proof.Machine.execRorZp op s
  | .pla => Sys2Proof.Machine.execPla s
  | .adcImm op => Sys2Proof.Machine.execAdcImm op s
  | .rorAcc => Sys2Proof.Machine.execRorAcc s
  | .jmpInd addr => Sys2Proof.Machine.execJmpInd addr s
  | .adcAbs addr => Sys2Proof.Machine.execAdcAbs addr s
  | .rorAbs addr => Sys2Proof.Machine.execRorAbs addr s
  | .bvs offset => Sys2Proof.Machine.execBvs offset s
  | .adcIzy op => Sys2Proof.Machine.execAdcIzy op s
  | .adcZpx op => Sys2Proof.Machine.execAdcZpx op s
  | .rorZpx op => Sys2Proof.Machine.execRorZpx op s
  | .sei => Sys2Proof.Machine.execSei s
  | .adcAbsy addr => Sys2Proof.Machine.execAdcAbsy addr s
  | .adcAbsx addr => Sys2Proof.Machine.execAdcAbsx addr s
  | .rorAbsx addr => Sys2Proof.Machine.execRorAbsx addr s
  | .staIzx op => Sys2Proof.Machine.execStaIzx op s
  | .styZp op => Sys2Proof.Machine.execStyZp op s
  | .staZp op => Sys2Proof.Machine.execStaZp op s
  | .stxZp op => Sys2Proof.Machine.execStxZp op s
  | .dey => Sys2Proof.Machine.execDey s
  | .txa => Sys2Proof.Machine.execTxa s
  | .styAbs addr => Sys2Proof.Machine.execStyAbs addr s
  | .staAbs addr => Sys2Proof.Machine.execStaAbs addr s
  | .stxAbs addr => Sys2Proof.Machine.execStxAbs addr s
  | .bcc offset => Sys2Proof.Machine.execBcc offset s
  | .staIzy op => Sys2Proof.Machine.execStaIzy op s
  | .styZpx op => Sys2Proof.Machine.execStyZpx op s
  | .staZpx op => Sys2Proof.Machine.execStaZpx op s
  | .stxZpy op => Sys2Proof.Machine.execStxZpy op s
  | .tya => Sys2Proof.Machine.execTya s
  | .staAbsy addr => Sys2Proof.Machine.execStaAbsy addr s
  | .txs => Sys2Proof.Machine.execTxs s
  | .staAbsx addr => Sys2Proof.Machine.execStaAbsx addr s
  | .ldyImm op => Sys2Proof.Machine.execLdyImm op s
  | .ldaIzx op => Sys2Proof.Machine.execLdaIzx op s
  | .ldxImm op => Sys2Proof.Machine.execLdxImm op s
  | .ldyZp op => Sys2Proof.Machine.execLdyZp op s
  | .ldaZp op => Sys2Proof.Machine.execLdaZp op s
  | .ldxZp op => Sys2Proof.Machine.execLdxZp op s
  | .tay => Sys2Proof.Machine.execTay s
  | .ldaImm op => Sys2Proof.Machine.execLdaImm op s
  | .tax => Sys2Proof.Machine.execTax s
  | .ldyAbs addr => Sys2Proof.Machine.execLdyAbs addr s
  | .ldaAbs addr => Sys2Proof.Machine.execLdaAbs addr s
  | .ldxAbs addr => Sys2Proof.Machine.execLdxAbs addr s
  | .bcs offset => Sys2Proof.Machine.execBcs offset s
  | .ldaIzy op => Sys2Proof.Machine.execLdaIzy op s
  | .ldyZpx op => Sys2Proof.Machine.execLdyZpx op s
  | .ldaZpx op => Sys2Proof.Machine.execLdaZpx op s
  | .ldxZpy op => Sys2Proof.Machine.execLdxZpy op s
  | .clv => Sys2Proof.Machine.execClv s
  | .ldaAbsy addr => Sys2Proof.Machine.execLdaAbsy addr s
  | .tsx => Sys2Proof.Machine.execTsx s
  | .ldyAbsx addr => Sys2Proof.Machine.execLdyAbsx addr s
  | .ldaAbsx addr => Sys2Proof.Machine.execLdaAbsx addr s
  | .ldxAbsy addr => Sys2Proof.Machine.execLdxAbsy addr s
  | .cpyImm op => Sys2Proof.Machine.execCpyImm op s
  | .cmpIzx op => Sys2Proof.Machine.execCmpIzx op s
  | .cpyZp op => Sys2Proof.Machine.execCpyZp op s
  | .cmpZp op => Sys2Proof.Machine.execCmpZp op s
  | .decZp op => Sys2Proof.Machine.execDecZp op s
  | .iny => Sys2Proof.Machine.execIny s
  | .cmpImm op => Sys2Proof.Machine.execCmpImm op s
  | .dex => Sys2Proof.Machine.execDex s
  | .cpyAbs addr => Sys2Proof.Machine.execCpyAbs addr s
  | .cmpAbs addr => Sys2Proof.Machine.execCmpAbs addr s
  | .decAbs addr => Sys2Proof.Machine.execDecAbs addr s
  | .bne offset => Sys2Proof.Machine.execBne offset s
  | .cmpIzy op => Sys2Proof.Machine.execCmpIzy op s
  | .cmpZpx op => Sys2Proof.Machine.execCmpZpx op s
  | .decZpx op => Sys2Proof.Machine.execDecZpx op s
  | .cld => Sys2Proof.Machine.execCld s
  | .cmpAbsy addr => Sys2Proof.Machine.execCmpAbsy addr s
  | .cmpAbsx addr => Sys2Proof.Machine.execCmpAbsx addr s
  | .decAbsx addr => Sys2Proof.Machine.execDecAbsx addr s
  | .cpxImm op => Sys2Proof.Machine.execCpxImm op s
  | .sbcIzx op => Sys2Proof.Machine.execSbcIzx op s
  | .cpxZp op => Sys2Proof.Machine.execCpxZp op s
  | .sbcZp op => Sys2Proof.Machine.execSbcZp op s
  | .incZp op => Sys2Proof.Machine.execIncZp op s
  | .inx => Sys2Proof.Machine.execInx s
  | .sbcImm op => Sys2Proof.Machine.execSbcImm op s
  | .nop => Sys2Proof.Machine.execNop s
  | .cpxAbs addr => Sys2Proof.Machine.execCpxAbs addr s
  | .sbcAbs addr => Sys2Proof.Machine.execSbcAbs addr s
  | .incAbs addr => Sys2Proof.Machine.execIncAbs addr s
  | .beq offset => Sys2Proof.Machine.execBeq offset s
  | .sbcIzy op => Sys2Proof.Machine.execSbcIzy op s
  | .sbcZpx op => Sys2Proof.Machine.execSbcZpx op s
  | .incZpx op => Sys2Proof.Machine.execIncZpx op s
  | .sed => Sys2Proof.Machine.execSed s
  | .sbcAbsy addr => Sys2Proof.Machine.execSbcAbsy addr s
  | .sbcAbsx addr => Sys2Proof.Machine.execSbcAbsx addr s
  | .incAbsx addr => Sys2Proof.Machine.execIncAbsx addr s

end Sys2Proof.Machine
end

