-- ==== Sys2Proof/WellFormed.lean ====
section
/-! DEFINITION. Well-formed instructions: the one thing the types of `Syntax` do not already say is that a branch offset
fits its byte. -/

namespace Sys2Proof

/-- "a signed value from -128 to +127" (30_encoding.md R72). -/
def branchOffsetFits (offset : Int) : Bool := decide (-128 ≤ offset) && decide (offset ≤ 127)

/-- An instruction that some words encode. Every field but the branch offset is a byte or a 16-bit value of the
instruction stream, so any value of it is encodable (R70, R72). -/
def Instr.wellFormed (i : Instr) : Bool :=
  match i with
  | .bpl offset => branchOffsetFits offset
  | .bmi offset => branchOffsetFits offset
  | .bvc offset => branchOffsetFits offset
  | .bvs offset => branchOffsetFits offset
  | .bcc offset => branchOffsetFits offset
  | .bcs offset => branchOffsetFits offset
  | .bne offset => branchOffsetFits offset
  | .beq offset => branchOffsetFits offset
  | .brk | .oraIzx _ | .oraZp _ | .aslZp _ | .php | .oraImm _ | .aslAcc | .oraAbs _ | .aslAbs _ | .oraIzy _ |
    .oraZpx _ | .aslZpx _ | .clc | .oraAbsy _ | .oraAbsx _ | .aslAbsx _ | .jsr _ | .andIzx _ | .bitZp _ |
    .andZp _ | .rolZp _ | .plp | .andImm _ | .rolAcc | .bitAbs _ | .andAbs _ | .rolAbs _ | .andIzy _ |
    .andZpx _ | .rolZpx _ | .sec | .andAbsy _ | .andAbsx _ | .rolAbsx _ | .rti | .eorIzx _ | .eorZp _ |
    .lsrZp _ | .pha | .eorImm _ | .lsrAcc | .jmpAbs _ | .eorAbs _ | .lsrAbs _ | .eorIzy _ | .eorZpx _ |
    .lsrZpx _ | .cli | .eorAbsy _ | .eorAbsx _ | .lsrAbsx _ | .rts | .adcIzx _ | .adcZp _ | .rorZp _ | .pla |
    .adcImm _ | .rorAcc | .jmpInd _ | .adcAbs _ | .rorAbs _ | .adcIzy _ | .adcZpx _ | .rorZpx _ | .sei |
    .adcAbsy _ | .adcAbsx _ | .rorAbsx _ | .staIzx _ | .styZp _ | .staZp _ | .stxZp _ | .dey | .txa |
    .styAbs _ | .staAbs _ | .stxAbs _ | .staIzy _ | .styZpx _ | .staZpx _ | .stxZpy _ | .tya | .staAbsy _ |
    .txs | .staAbsx _ | .ldyImm _ | .ldaIzx _ | .ldxImm _ | .ldyZp _ | .ldaZp _ | .ldxZp _ | .tay |
    .ldaImm _ | .tax | .ldyAbs _ | .ldaAbs _ | .ldxAbs _ | .ldaIzy _ | .ldyZpx _ | .ldaZpx _ | .ldxZpy _ |
    .clv | .ldaAbsy _ | .tsx | .ldyAbsx _ | .ldaAbsx _ | .ldxAbsy _ | .cpyImm _ | .cmpIzx _ | .cpyZp _ |
    .cmpZp _ | .decZp _ | .iny | .cmpImm _ | .dex | .cpyAbs _ | .cmpAbs _ | .decAbs _ | .cmpIzy _ |
    .cmpZpx _ | .decZpx _ | .cld | .cmpAbsy _ | .cmpAbsx _ | .decAbsx _ | .cpxImm _ | .sbcIzx _ | .cpxZp _ |
    .sbcZp _ | .incZp _ | .inx | .sbcImm _ | .nop | .cpxAbs _ | .sbcAbs _ | .incAbs _ | .sbcIzy _ |
    .sbcZpx _ | .incZpx _ | .sed | .sbcAbsy _ | .sbcAbsx _ | .incAbsx _ => true

end Sys2Proof
end

