-- ==== Sys2Proof/Decode.lean ====
section
/-! DEFINITION. The dispatch table (30_encoding.md R73, R74), the decoder, total on any bytes and rejecting by name
(R70, R71, R76), and the encoder. -/

namespace Sys2Proof

/-- The mnemonic of each row of the table (R74). -/
def Instr.mnemonic (i : Instr) : Mnemonic :=
  match i with
  | .ldaIzx _ | .ldaZp _ | .ldaImm _ | .ldaAbs _ | .ldaIzy _ | .ldaZpx _ | .ldaAbsy _ | .ldaAbsx _ => .lda
  | .ldxImm _ | .ldxZp _ | .ldxAbs _ | .ldxZpy _ | .ldxAbsy _ => .ldx
  | .ldyImm _ | .ldyZp _ | .ldyAbs _ | .ldyZpx _ | .ldyAbsx _ => .ldy
  | .staIzx _ | .staZp _ | .staAbs _ | .staIzy _ | .staZpx _ | .staAbsy _ | .staAbsx _ => .sta
  | .stxZp _ | .stxAbs _ | .stxZpy _ => .stx
  | .styZp _ | .styAbs _ | .styZpx _ => .sty
  | .tax => .tax
  | .tay => .tay
  | .tsx => .tsx
  | .txa => .txa
  | .tya => .tya
  | .txs => .txs
  | .adcIzx _ | .adcZp _ | .adcImm _ | .adcAbs _ | .adcIzy _ | .adcZpx _ | .adcAbsy _ | .adcAbsx _ => .adc
  | .sbcIzx _ | .sbcZp _ | .sbcImm _ | .sbcAbs _ | .sbcIzy _ | .sbcZpx _ | .sbcAbsy _ | .sbcAbsx _ => .sbc
  | .andIzx _ | .andZp _ | .andImm _ | .andAbs _ | .andIzy _ | .andZpx _ | .andAbsy _ | .andAbsx _ => .and
  | .oraIzx _ | .oraZp _ | .oraImm _ | .oraAbs _ | .oraIzy _ | .oraZpx _ | .oraAbsy _ | .oraAbsx _ => .ora
  | .eorIzx _ | .eorZp _ | .eorImm _ | .eorAbs _ | .eorIzy _ | .eorZpx _ | .eorAbsy _ | .eorAbsx _ => .eor
  | .incZp _ | .incAbs _ | .incZpx _ | .incAbsx _ => .inc
  | .decZp _ | .decAbs _ | .decZpx _ | .decAbsx _ => .dec
  | .inx => .inx
  | .iny => .iny
  | .dex => .dex
  | .dey => .dey
  | .aslZp _ | .aslAcc | .aslAbs _ | .aslZpx _ | .aslAbsx _ => .asl
  | .lsrZp _ | .lsrAcc | .lsrAbs _ | .lsrZpx _ | .lsrAbsx _ => .lsr
  | .rolZp _ | .rolAcc | .rolAbs _ | .rolZpx _ | .rolAbsx _ => .rol
  | .rorZp _ | .rorAcc | .rorAbs _ | .rorZpx _ | .rorAbsx _ => .ror
  | .cmpIzx _ | .cmpZp _ | .cmpImm _ | .cmpAbs _ | .cmpIzy _ | .cmpZpx _ | .cmpAbsy _ | .cmpAbsx _ => .cmp
  | .cpxImm _ | .cpxZp _ | .cpxAbs _ => .cpx
  | .cpyImm _ | .cpyZp _ | .cpyAbs _ => .cpy
  | .bitZp _ | .bitAbs _ => .bit
  | .bpl _ => .bpl
  | .bmi _ => .bmi
  | .bvc _ => .bvc
  | .bvs _ => .bvs
  | .bcc _ => .bcc
  | .bcs _ => .bcs
  | .bne _ => .bne
  | .beq _ => .beq
  | .jmpAbs _ | .jmpInd _ => .jmp
  | .jsr _ => .jsr
  | .rts => .rts
  | .pha => .pha
  | .pla => .pla
  | .php => .php
  | .plp => .plp
  | .clc => .clc
  | .sec => .sec
  | .cld => .cld
  | .sed => .sed
  | .cli => .cli
  | .sei => .sei
  | .clv => .clv
  | .nop => .nop
  | .brk => .brk
  | .rti => .rti

/-- The addressing mode of each row, with the operand the instruction carries (R72, R74). -/
def Instr.form (i : Instr) : Form :=
  match i with
  | .brk => .imp
  | .oraIzx op => .mem (.izx op)
  | .oraZp op => .mem (.zp op)
  | .aslZp op => .mem (.zp op)
  | .php => .imp
  | .oraImm op => .mem (.imm op)
  | .aslAcc => .acc
  | .oraAbs addr => .mem (.abs addr)
  | .aslAbs addr => .mem (.abs addr)
  | .bpl offset => .rel offset
  | .oraIzy op => .mem (.izy op)
  | .oraZpx op => .mem (.zpx op)
  | .aslZpx op => .mem (.zpx op)
  | .clc => .imp
  | .oraAbsy addr => .mem (.absy addr)
  | .oraAbsx addr => .mem (.absx addr)
  | .aslAbsx addr => .mem (.absx addr)
  | .jsr addr => .mem (.abs addr)
  | .andIzx op => .mem (.izx op)
  | .bitZp op => .mem (.zp op)
  | .andZp op => .mem (.zp op)
  | .rolZp op => .mem (.zp op)
  | .plp => .imp
  | .andImm op => .mem (.imm op)
  | .rolAcc => .acc
  | .bitAbs addr => .mem (.abs addr)
  | .andAbs addr => .mem (.abs addr)
  | .rolAbs addr => .mem (.abs addr)
  | .bmi offset => .rel offset
  | .andIzy op => .mem (.izy op)
  | .andZpx op => .mem (.zpx op)
  | .rolZpx op => .mem (.zpx op)
  | .sec => .imp
  | .andAbsy addr => .mem (.absy addr)
  | .andAbsx addr => .mem (.absx addr)
  | .rolAbsx addr => .mem (.absx addr)
  | .rti => .imp
  | .eorIzx op => .mem (.izx op)
  | .eorZp op => .mem (.zp op)
  | .lsrZp op => .mem (.zp op)
  | .pha => .imp
  | .eorImm op => .mem (.imm op)
  | .lsrAcc => .acc
  | .jmpAbs addr => .mem (.abs addr)
  | .eorAbs addr => .mem (.abs addr)
  | .lsrAbs addr => .mem (.abs addr)
  | .bvc offset => .rel offset
  | .eorIzy op => .mem (.izy op)
  | .eorZpx op => .mem (.zpx op)
  | .lsrZpx op => .mem (.zpx op)
  | .cli => .imp
  | .eorAbsy addr => .mem (.absy addr)
  | .eorAbsx addr => .mem (.absx addr)
  | .lsrAbsx addr => .mem (.absx addr)
  | .rts => .imp
  | .adcIzx op => .mem (.izx op)
  | .adcZp op => .mem (.zp op)
  | .rorZp op => .mem (.zp op)
  | .pla => .imp
  | .adcImm op => .mem (.imm op)
  | .rorAcc => .acc
  | .jmpInd addr => .ind addr
  | .adcAbs addr => .mem (.abs addr)
  | .rorAbs addr => .mem (.abs addr)
  | .bvs offset => .rel offset
  | .adcIzy op => .mem (.izy op)
  | .adcZpx op => .mem (.zpx op)
  | .rorZpx op => .mem (.zpx op)
  | .sei => .imp
  | .adcAbsy addr => .mem (.absy addr)
  | .adcAbsx addr => .mem (.absx addr)
  | .rorAbsx addr => .mem (.absx addr)
  | .staIzx op => .mem (.izx op)
  | .styZp op => .mem (.zp op)
  | .staZp op => .mem (.zp op)
  | .stxZp op => .mem (.zp op)
  | .dey => .imp
  | .txa => .imp
  | .styAbs addr => .mem (.abs addr)
  | .staAbs addr => .mem (.abs addr)
  | .stxAbs addr => .mem (.abs addr)
  | .bcc offset => .rel offset
  | .staIzy op => .mem (.izy op)
  | .styZpx op => .mem (.zpx op)
  | .staZpx op => .mem (.zpx op)
  | .stxZpy op => .mem (.zpy op)
  | .tya => .imp
  | .staAbsy addr => .mem (.absy addr)
  | .txs => .imp
  | .staAbsx addr => .mem (.absx addr)
  | .ldyImm op => .mem (.imm op)
  | .ldaIzx op => .mem (.izx op)
  | .ldxImm op => .mem (.imm op)
  | .ldyZp op => .mem (.zp op)
  | .ldaZp op => .mem (.zp op)
  | .ldxZp op => .mem (.zp op)
  | .tay => .imp
  | .ldaImm op => .mem (.imm op)
  | .tax => .imp
  | .ldyAbs addr => .mem (.abs addr)
  | .ldaAbs addr => .mem (.abs addr)
  | .ldxAbs addr => .mem (.abs addr)
  | .bcs offset => .rel offset
  | .ldaIzy op => .mem (.izy op)
  | .ldyZpx op => .mem (.zpx op)
  | .ldaZpx op => .mem (.zpx op)
  | .ldxZpy op => .mem (.zpy op)
  | .clv => .imp
  | .ldaAbsy addr => .mem (.absy addr)
  | .tsx => .imp
  | .ldyAbsx addr => .mem (.absx addr)
  | .ldaAbsx addr => .mem (.absx addr)
  | .ldxAbsy addr => .mem (.absy addr)
  | .cpyImm op => .mem (.imm op)
  | .cmpIzx op => .mem (.izx op)
  | .cpyZp op => .mem (.zp op)
  | .cmpZp op => .mem (.zp op)
  | .decZp op => .mem (.zp op)
  | .iny => .imp
  | .cmpImm op => .mem (.imm op)
  | .dex => .imp
  | .cpyAbs addr => .mem (.abs addr)
  | .cmpAbs addr => .mem (.abs addr)
  | .decAbs addr => .mem (.abs addr)
  | .bne offset => .rel offset
  | .cmpIzy op => .mem (.izy op)
  | .cmpZpx op => .mem (.zpx op)
  | .decZpx op => .mem (.zpx op)
  | .cld => .imp
  | .cmpAbsy addr => .mem (.absy addr)
  | .cmpAbsx addr => .mem (.absx addr)
  | .decAbsx addr => .mem (.absx addr)
  | .cpxImm op => .mem (.imm op)
  | .sbcIzx op => .mem (.izx op)
  | .cpxZp op => .mem (.zp op)
  | .sbcZp op => .mem (.zp op)
  | .incZp op => .mem (.zp op)
  | .inx => .imp
  | .sbcImm op => .mem (.imm op)
  | .nop => .imp
  | .cpxAbs addr => .mem (.abs addr)
  | .sbcAbs addr => .mem (.abs addr)
  | .incAbs addr => .mem (.abs addr)
  | .beq offset => .rel offset
  | .sbcIzy op => .mem (.izy op)
  | .sbcZpx op => .mem (.zpx op)
  | .incZpx op => .mem (.zpx op)
  | .sed => .imp
  | .sbcAbsy addr => .mem (.absy addr)
  | .sbcAbsx addr => .mem (.absx addr)
  | .incAbsx addr => .mem (.absx addr)

/-- The addressing mode of a memory operand. -/
def Operand.mode (o : Operand) : Mode :=
  match o with
  | .imm _ => .imm
  | .zp _ => .zp
  | .zpx _ => .zpx
  | .zpy _ => .zpy
  | .abs _ => .abs
  | .absx _ => .absx
  | .absy _ => .absy
  | .izx _ => .izx
  | .izy _ => .izy

/-- The addressing mode of an operand form. -/
def Form.mode (f : Form) : Mode :=
  match f with
  | .imp => .imp
  | .acc => .acc
  | .mem o => o.mode
  | .ind _ => .ind
  | .rel _ => .rel

/-- How many operand bytes follow the opcode byte in each mode: formats F1, F2, F3 of R70. -/
def Mode.operandLength (m : Mode) : Nat :=
  match m with
  | .imp | .acc => 0
  | .imm | .zp | .zpx | .zpy | .izx | .izy | .rel => 1
  | .abs | .absx | .absy | .ind => 2

/-- "The length of an instruction is `1 + operand bytes of its mode`" (R71). -/
def Instr.length (i : Instr) : Nat := 1 + i.form.mode.operandLength

/-- The opcode byte of each row (R74). -/
def Instr.opcode (i : Instr) : Byte :=
  match i with
  | .brk => 0x00#8
  | .oraIzx _ => 0x01#8
  | .oraZp _ => 0x05#8
  | .aslZp _ => 0x06#8
  | .php => 0x08#8
  | .oraImm _ => 0x09#8
  | .aslAcc => 0x0A#8
  | .oraAbs _ => 0x0D#8
  | .aslAbs _ => 0x0E#8
  | .bpl _ => 0x10#8
  | .oraIzy _ => 0x11#8
  | .oraZpx _ => 0x15#8
  | .aslZpx _ => 0x16#8
  | .clc => 0x18#8
  | .oraAbsy _ => 0x19#8
  | .oraAbsx _ => 0x1D#8
  | .aslAbsx _ => 0x1E#8
  | .jsr _ => 0x20#8
  | .andIzx _ => 0x21#8
  | .bitZp _ => 0x24#8
  | .andZp _ => 0x25#8
  | .rolZp _ => 0x26#8
  | .plp => 0x28#8
  | .andImm _ => 0x29#8
  | .rolAcc => 0x2A#8
  | .bitAbs _ => 0x2C#8
  | .andAbs _ => 0x2D#8
  | .rolAbs _ => 0x2E#8
  | .bmi _ => 0x30#8
  | .andIzy _ => 0x31#8
  | .andZpx _ => 0x35#8
  | .rolZpx _ => 0x36#8
  | .sec => 0x38#8
  | .andAbsy _ => 0x39#8
  | .andAbsx _ => 0x3D#8
  | .rolAbsx _ => 0x3E#8
  | .rti => 0x40#8
  | .eorIzx _ => 0x41#8
  | .eorZp _ => 0x45#8
  | .lsrZp _ => 0x46#8
  | .pha => 0x48#8
  | .eorImm _ => 0x49#8
  | .lsrAcc => 0x4A#8
  | .jmpAbs _ => 0x4C#8
  | .eorAbs _ => 0x4D#8
  | .lsrAbs _ => 0x4E#8
  | .bvc _ => 0x50#8
  | .eorIzy _ => 0x51#8
  | .eorZpx _ => 0x55#8
  | .lsrZpx _ => 0x56#8
  | .cli => 0x58#8
  | .eorAbsy _ => 0x59#8
  | .eorAbsx _ => 0x5D#8
  | .lsrAbsx _ => 0x5E#8
  | .rts => 0x60#8
  | .adcIzx _ => 0x61#8
  | .adcZp _ => 0x65#8
  | .rorZp _ => 0x66#8
  | .pla => 0x68#8
  | .adcImm _ => 0x69#8
  | .rorAcc => 0x6A#8
  | .jmpInd _ => 0x6C#8
  | .adcAbs _ => 0x6D#8
  | .rorAbs _ => 0x6E#8
  | .bvs _ => 0x70#8
  | .adcIzy _ => 0x71#8
  | .adcZpx _ => 0x75#8
  | .rorZpx _ => 0x76#8
  | .sei => 0x78#8
  | .adcAbsy _ => 0x79#8
  | .adcAbsx _ => 0x7D#8
  | .rorAbsx _ => 0x7E#8
  | .staIzx _ => 0x81#8
  | .styZp _ => 0x84#8
  | .staZp _ => 0x85#8
  | .stxZp _ => 0x86#8
  | .dey => 0x88#8
  | .txa => 0x8A#8
  | .styAbs _ => 0x8C#8
  | .staAbs _ => 0x8D#8
  | .stxAbs _ => 0x8E#8
  | .bcc _ => 0x90#8
  | .staIzy _ => 0x91#8
  | .styZpx _ => 0x94#8
  | .staZpx _ => 0x95#8
  | .stxZpy _ => 0x96#8
  | .tya => 0x98#8
  | .staAbsy _ => 0x99#8
  | .txs => 0x9A#8
  | .staAbsx _ => 0x9D#8
  | .ldyImm _ => 0xA0#8
  | .ldaIzx _ => 0xA1#8
  | .ldxImm _ => 0xA2#8
  | .ldyZp _ => 0xA4#8
  | .ldaZp _ => 0xA5#8
  | .ldxZp _ => 0xA6#8
  | .tay => 0xA8#8
  | .ldaImm _ => 0xA9#8
  | .tax => 0xAA#8
  | .ldyAbs _ => 0xAC#8
  | .ldaAbs _ => 0xAD#8
  | .ldxAbs _ => 0xAE#8
  | .bcs _ => 0xB0#8
  | .ldaIzy _ => 0xB1#8
  | .ldyZpx _ => 0xB4#8
  | .ldaZpx _ => 0xB5#8
  | .ldxZpy _ => 0xB6#8
  | .clv => 0xB8#8
  | .ldaAbsy _ => 0xB9#8
  | .tsx => 0xBA#8
  | .ldyAbsx _ => 0xBC#8
  | .ldaAbsx _ => 0xBD#8
  | .ldxAbsy _ => 0xBE#8
  | .cpyImm _ => 0xC0#8
  | .cmpIzx _ => 0xC1#8
  | .cpyZp _ => 0xC4#8
  | .cmpZp _ => 0xC5#8
  | .decZp _ => 0xC6#8
  | .iny => 0xC8#8
  | .cmpImm _ => 0xC9#8
  | .dex => 0xCA#8
  | .cpyAbs _ => 0xCC#8
  | .cmpAbs _ => 0xCD#8
  | .decAbs _ => 0xCE#8
  | .bne _ => 0xD0#8
  | .cmpIzy _ => 0xD1#8
  | .cmpZpx _ => 0xD5#8
  | .decZpx _ => 0xD6#8
  | .cld => 0xD8#8
  | .cmpAbsy _ => 0xD9#8
  | .cmpAbsx _ => 0xDD#8
  | .decAbsx _ => 0xDE#8
  | .cpxImm _ => 0xE0#8
  | .sbcIzx _ => 0xE1#8
  | .cpxZp _ => 0xE4#8
  | .sbcZp _ => 0xE5#8
  | .incZp _ => 0xE6#8
  | .inx => 0xE8#8
  | .sbcImm _ => 0xE9#8
  | .nop => 0xEA#8
  | .cpxAbs _ => 0xEC#8
  | .sbcAbs _ => 0xED#8
  | .incAbs _ => 0xEE#8
  | .beq _ => 0xF0#8
  | .sbcIzy _ => 0xF1#8
  | .sbcZpx _ => 0xF5#8
  | .incZpx _ => 0xF6#8
  | .sed => 0xF8#8
  | .sbcAbsy _ => 0xF9#8
  | .sbcAbsx _ => 0xFD#8
  | .incAbsx _ => 0xFE#8

/-- An entry of the dispatch table (R73): mnemonic tag, addressing-mode tag, base cycles, page-cross-adds flag. -/
structure Entry where
  mnemonic : Mnemonic
  mode : Mode
  baseCycles : Nat
  pageCrossAdds : Bool
deriving DecidableEq, Repr

/-- Rows 1 to 19 of the table of R74, by opcode byte. -/
def dispatchRows0 : List (Nat × Entry) := [
  (0x00, ⟨.brk, .imp, 7, false⟩),
  (0x01, ⟨.ora, .izx, 6, false⟩),
  (0x05, ⟨.ora, .zp, 3, false⟩),
  (0x06, ⟨.asl, .zp, 5, false⟩),
  (0x08, ⟨.php, .imp, 3, false⟩),
  (0x09, ⟨.ora, .imm, 2, false⟩),
  (0x0A, ⟨.asl, .acc, 2, false⟩),
  (0x0D, ⟨.ora, .abs, 4, false⟩),
  (0x0E, ⟨.asl, .abs, 6, false⟩),
  (0x10, ⟨.bpl, .rel, 2, false⟩),
  (0x11, ⟨.ora, .izy, 5, true⟩),
  (0x15, ⟨.ora, .zpx, 4, false⟩),
  (0x16, ⟨.asl, .zpx, 6, false⟩),
  (0x18, ⟨.clc, .imp, 2, false⟩),
  (0x19, ⟨.ora, .absy, 4, true⟩),
  (0x1D, ⟨.ora, .absx, 4, true⟩),
  (0x1E, ⟨.asl, .absx, 7, false⟩),
  (0x20, ⟨.jsr, .abs, 6, false⟩),
  (0x21, ⟨.and, .izx, 6, false⟩)]

/-- Rows 20 to 38 of the table of R74, by opcode byte. -/
def dispatchRows1 : List (Nat × Entry) := [
  (0x24, ⟨.bit, .zp, 3, false⟩),
  (0x25, ⟨.and, .zp, 3, false⟩),
  (0x26, ⟨.rol, .zp, 5, false⟩),
  (0x28, ⟨.plp, .imp, 4, false⟩),
  (0x29, ⟨.and, .imm, 2, false⟩),
  (0x2A, ⟨.rol, .acc, 2, false⟩),
  (0x2C, ⟨.bit, .abs, 4, false⟩),
  (0x2D, ⟨.and, .abs, 4, false⟩),
  (0x2E, ⟨.rol, .abs, 6, false⟩),
  (0x30, ⟨.bmi, .rel, 2, false⟩),
  (0x31, ⟨.and, .izy, 5, true⟩),
  (0x35, ⟨.and, .zpx, 4, false⟩),
  (0x36, ⟨.rol, .zpx, 6, false⟩),
  (0x38, ⟨.sec, .imp, 2, false⟩),
  (0x39, ⟨.and, .absy, 4, true⟩),
  (0x3D, ⟨.and, .absx, 4, true⟩),
  (0x3E, ⟨.rol, .absx, 7, false⟩),
  (0x40, ⟨.rti, .imp, 6, false⟩),
  (0x41, ⟨.eor, .izx, 6, false⟩)]

/-- Rows 39 to 57 of the table of R74, by opcode byte. -/
def dispatchRows2 : List (Nat × Entry) := [
  (0x45, ⟨.eor, .zp, 3, false⟩),
  (0x46, ⟨.lsr, .zp, 5, false⟩),
  (0x48, ⟨.pha, .imp, 3, false⟩),
  (0x49, ⟨.eor, .imm, 2, false⟩),
  (0x4A, ⟨.lsr, .acc, 2, false⟩),
  (0x4C, ⟨.jmp, .abs, 3, false⟩),
  (0x4D, ⟨.eor, .abs, 4, false⟩),
  (0x4E, ⟨.lsr, .abs, 6, false⟩),
  (0x50, ⟨.bvc, .rel, 2, false⟩),
  (0x51, ⟨.eor, .izy, 5, true⟩),
  (0x55, ⟨.eor, .zpx, 4, false⟩),
  (0x56, ⟨.lsr, .zpx, 6, false⟩),
  (0x58, ⟨.cli, .imp, 2, false⟩),
  (0x59, ⟨.eor, .absy, 4, true⟩),
  (0x5D, ⟨.eor, .absx, 4, true⟩),
  (0x5E, ⟨.lsr, .absx, 7, false⟩),
  (0x60, ⟨.rts, .imp, 6, false⟩),
  (0x61, ⟨.adc, .izx, 6, false⟩),
  (0x65, ⟨.adc, .zp, 3, false⟩)]

/-- Rows 58 to 76 of the table of R74, by opcode byte. -/
def dispatchRows3 : List (Nat × Entry) := [
  (0x66, ⟨.ror, .zp, 5, false⟩),
  (0x68, ⟨.pla, .imp, 4, false⟩),
  (0x69, ⟨.adc, .imm, 2, false⟩),
  (0x6A, ⟨.ror, .acc, 2, false⟩),
  (0x6C, ⟨.jmp, .ind, 5, false⟩),
  (0x6D, ⟨.adc, .abs, 4, false⟩),
  (0x6E, ⟨.ror, .abs, 6, false⟩),
  (0x70, ⟨.bvs, .rel, 2, false⟩),
  (0x71, ⟨.adc, .izy, 5, true⟩),
  (0x75, ⟨.adc, .zpx, 4, false⟩),
  (0x76, ⟨.ror, .zpx, 6, false⟩),
  (0x78, ⟨.sei, .imp, 2, false⟩),
  (0x79, ⟨.adc, .absy, 4, true⟩),
  (0x7D, ⟨.adc, .absx, 4, true⟩),
  (0x7E, ⟨.ror, .absx, 7, false⟩),
  (0x81, ⟨.sta, .izx, 6, false⟩),
  (0x84, ⟨.sty, .zp, 3, false⟩),
  (0x85, ⟨.sta, .zp, 3, false⟩),
  (0x86, ⟨.stx, .zp, 3, false⟩)]

/-- Rows 77 to 95 of the table of R74, by opcode byte. -/
def dispatchRows4 : List (Nat × Entry) := [
  (0x88, ⟨.dey, .imp, 2, false⟩),
  (0x8A, ⟨.txa, .imp, 2, false⟩),
  (0x8C, ⟨.sty, .abs, 4, false⟩),
  (0x8D, ⟨.sta, .abs, 4, false⟩),
  (0x8E, ⟨.stx, .abs, 4, false⟩),
  (0x90, ⟨.bcc, .rel, 2, false⟩),
  (0x91, ⟨.sta, .izy, 6, false⟩),
  (0x94, ⟨.sty, .zpx, 4, false⟩),
  (0x95, ⟨.sta, .zpx, 4, false⟩),
  (0x96, ⟨.stx, .zpy, 4, false⟩),
  (0x98, ⟨.tya, .imp, 2, false⟩),
  (0x99, ⟨.sta, .absy, 5, false⟩),
  (0x9A, ⟨.txs, .imp, 2, false⟩),
  (0x9D, ⟨.sta, .absx, 5, false⟩),
  (0xA0, ⟨.ldy, .imm, 2, false⟩),
  (0xA1, ⟨.lda, .izx, 6, false⟩),
  (0xA2, ⟨.ldx, .imm, 2, false⟩),
  (0xA4, ⟨.ldy, .zp, 3, false⟩),
  (0xA5, ⟨.lda, .zp, 3, false⟩)]

/-- Rows 96 to 114 of the table of R74, by opcode byte. -/
def dispatchRows5 : List (Nat × Entry) := [
  (0xA6, ⟨.ldx, .zp, 3, false⟩),
  (0xA8, ⟨.tay, .imp, 2, false⟩),
  (0xA9, ⟨.lda, .imm, 2, false⟩),
  (0xAA, ⟨.tax, .imp, 2, false⟩),
  (0xAC, ⟨.ldy, .abs, 4, false⟩),
  (0xAD, ⟨.lda, .abs, 4, false⟩),
  (0xAE, ⟨.ldx, .abs, 4, false⟩),
  (0xB0, ⟨.bcs, .rel, 2, false⟩),
  (0xB1, ⟨.lda, .izy, 5, true⟩),
  (0xB4, ⟨.ldy, .zpx, 4, false⟩),
  (0xB5, ⟨.lda, .zpx, 4, false⟩),
  (0xB6, ⟨.ldx, .zpy, 4, false⟩),
  (0xB8, ⟨.clv, .imp, 2, false⟩),
  (0xB9, ⟨.lda, .absy, 4, true⟩),
  (0xBA, ⟨.tsx, .imp, 2, false⟩),
  (0xBC, ⟨.ldy, .absx, 4, true⟩),
  (0xBD, ⟨.lda, .absx, 4, true⟩),
  (0xBE, ⟨.ldx, .absy, 4, true⟩),
  (0xC0, ⟨.cpy, .imm, 2, false⟩)]

/-- Rows 115 to 133 of the table of R74, by opcode byte. -/
def dispatchRows6 : List (Nat × Entry) := [
  (0xC1, ⟨.cmp, .izx, 6, false⟩),
  (0xC4, ⟨.cpy, .zp, 3, false⟩),
  (0xC5, ⟨.cmp, .zp, 3, false⟩),
  (0xC6, ⟨.dec, .zp, 5, false⟩),
  (0xC8, ⟨.iny, .imp, 2, false⟩),
  (0xC9, ⟨.cmp, .imm, 2, false⟩),
  (0xCA, ⟨.dex, .imp, 2, false⟩),
  (0xCC, ⟨.cpy, .abs, 4, false⟩),
  (0xCD, ⟨.cmp, .abs, 4, false⟩),
  (0xCE, ⟨.dec, .abs, 6, false⟩),
  (0xD0, ⟨.bne, .rel, 2, false⟩),
  (0xD1, ⟨.cmp, .izy, 5, true⟩),
  (0xD5, ⟨.cmp, .zpx, 4, false⟩),
  (0xD6, ⟨.dec, .zpx, 6, false⟩),
  (0xD8, ⟨.cld, .imp, 2, false⟩),
  (0xD9, ⟨.cmp, .absy, 4, true⟩),
  (0xDD, ⟨.cmp, .absx, 4, true⟩),
  (0xDE, ⟨.dec, .absx, 7, false⟩),
  (0xE0, ⟨.cpx, .imm, 2, false⟩)]

/-- Rows 134 to 151 of the table of R74, by opcode byte. -/
def dispatchRows7 : List (Nat × Entry) := [
  (0xE1, ⟨.sbc, .izx, 6, false⟩),
  (0xE4, ⟨.cpx, .zp, 3, false⟩),
  (0xE5, ⟨.sbc, .zp, 3, false⟩),
  (0xE6, ⟨.inc, .zp, 5, false⟩),
  (0xE8, ⟨.inx, .imp, 2, false⟩),
  (0xE9, ⟨.sbc, .imm, 2, false⟩),
  (0xEA, ⟨.nop, .imp, 2, false⟩),
  (0xEC, ⟨.cpx, .abs, 4, false⟩),
  (0xED, ⟨.sbc, .abs, 4, false⟩),
  (0xEE, ⟨.inc, .abs, 6, false⟩),
  (0xF0, ⟨.beq, .rel, 2, false⟩),
  (0xF1, ⟨.sbc, .izy, 5, true⟩),
  (0xF5, ⟨.sbc, .zpx, 4, false⟩),
  (0xF6, ⟨.inc, .zpx, 6, false⟩),
  (0xF8, ⟨.sed, .imp, 2, false⟩),
  (0xF9, ⟨.sbc, .absy, 4, true⟩),
  (0xFD, ⟨.sbc, .absx, 4, true⟩),
  (0xFE, ⟨.inc, .absx, 7, false⟩)]

/-- The 151 official entries, in opcode order (R74). -/
def dispatchRows : List (Nat × Entry) :=
  dispatchRows0 ++ dispatchRows1 ++ dispatchRows2 ++ dispatchRows3 ++ dispatchRows4 ++ dispatchRows5 ++ dispatchRows6 ++ dispatchRows7

/-- The dispatch table: 256 entries indexed by the opcode byte, `none` where it says `illegal` (R73, R76). The machine
counts a step's cycles by the cycles it performs (60_exceptions.md R230); this table states what they come to. -/
def dispatchTable (opc : Byte) : Option Entry := dispatchRows.lookup opc.toNat

/-- The instruction an opcode byte selects, with its operand bytes: `lo` the first, `hi` the second; a mode with fewer
operand bytes ignores the rest (R70 to R72, R74). `none` for the 105 illegal bytes (R76). -/
def instrOf (opc lo hi : Byte) : Option Instr :=
  match opc.toNat with
  | 0x00 => some .brk
  | 0x01 => some (.oraIzx lo)
  | 0x05 => some (.oraZp lo)
  | 0x06 => some (.aslZp lo)
  | 0x08 => some .php
  | 0x09 => some (.oraImm lo)
  | 0x0A => some .aslAcc
  | 0x0D => some (.oraAbs (word lo hi))
  | 0x0E => some (.aslAbs (word lo hi))
  | 0x10 => some (.bpl lo.toInt)
  | 0x11 => some (.oraIzy lo)
  | 0x15 => some (.oraZpx lo)
  | 0x16 => some (.aslZpx lo)
  | 0x18 => some .clc
  | 0x19 => some (.oraAbsy (word lo hi))
  | 0x1D => some (.oraAbsx (word lo hi))
  | 0x1E => some (.aslAbsx (word lo hi))
  | 0x20 => some (.jsr (word lo hi))
  | 0x21 => some (.andIzx lo)
  | 0x24 => some (.bitZp lo)
  | 0x25 => some (.andZp lo)
  | 0x26 => some (.rolZp lo)
  | 0x28 => some .plp
  | 0x29 => some (.andImm lo)
  | 0x2A => some .rolAcc
  | 0x2C => some (.bitAbs (word lo hi))
  | 0x2D => some (.andAbs (word lo hi))
  | 0x2E => some (.rolAbs (word lo hi))
  | 0x30 => some (.bmi lo.toInt)
  | 0x31 => some (.andIzy lo)
  | 0x35 => some (.andZpx lo)
  | 0x36 => some (.rolZpx lo)
  | 0x38 => some .sec
  | 0x39 => some (.andAbsy (word lo hi))
  | 0x3D => some (.andAbsx (word lo hi))
  | 0x3E => some (.rolAbsx (word lo hi))
  | 0x40 => some .rti
  | 0x41 => some (.eorIzx lo)
  | 0x45 => some (.eorZp lo)
  | 0x46 => some (.lsrZp lo)
  | 0x48 => some .pha
  | 0x49 => some (.eorImm lo)
  | 0x4A => some .lsrAcc
  | 0x4C => some (.jmpAbs (word lo hi))
  | 0x4D => some (.eorAbs (word lo hi))
  | 0x4E => some (.lsrAbs (word lo hi))
  | 0x50 => some (.bvc lo.toInt)
  | 0x51 => some (.eorIzy lo)
  | 0x55 => some (.eorZpx lo)
  | 0x56 => some (.lsrZpx lo)
  | 0x58 => some .cli
  | 0x59 => some (.eorAbsy (word lo hi))
  | 0x5D => some (.eorAbsx (word lo hi))
  | 0x5E => some (.lsrAbsx (word lo hi))
  | 0x60 => some .rts
  | 0x61 => some (.adcIzx lo)
  | 0x65 => some (.adcZp lo)
  | 0x66 => some (.rorZp lo)
  | 0x68 => some .pla
  | 0x69 => some (.adcImm lo)
  | 0x6A => some .rorAcc
  | 0x6C => some (.jmpInd (word lo hi))
  | 0x6D => some (.adcAbs (word lo hi))
  | 0x6E => some (.rorAbs (word lo hi))
  | 0x70 => some (.bvs lo.toInt)
  | 0x71 => some (.adcIzy lo)
  | 0x75 => some (.adcZpx lo)
  | 0x76 => some (.rorZpx lo)
  | 0x78 => some .sei
  | 0x79 => some (.adcAbsy (word lo hi))
  | 0x7D => some (.adcAbsx (word lo hi))
  | 0x7E => some (.rorAbsx (word lo hi))
  | 0x81 => some (.staIzx lo)
  | 0x84 => some (.styZp lo)
  | 0x85 => some (.staZp lo)
  | 0x86 => some (.stxZp lo)
  | 0x88 => some .dey
  | 0x8A => some .txa
  | 0x8C => some (.styAbs (word lo hi))
  | 0x8D => some (.staAbs (word lo hi))
  | 0x8E => some (.stxAbs (word lo hi))
  | 0x90 => some (.bcc lo.toInt)
  | 0x91 => some (.staIzy lo)
  | 0x94 => some (.styZpx lo)
  | 0x95 => some (.staZpx lo)
  | 0x96 => some (.stxZpy lo)
  | 0x98 => some .tya
  | 0x99 => some (.staAbsy (word lo hi))
  | 0x9A => some .txs
  | 0x9D => some (.staAbsx (word lo hi))
  | 0xA0 => some (.ldyImm lo)
  | 0xA1 => some (.ldaIzx lo)
  | 0xA2 => some (.ldxImm lo)
  | 0xA4 => some (.ldyZp lo)
  | 0xA5 => some (.ldaZp lo)
  | 0xA6 => some (.ldxZp lo)
  | 0xA8 => some .tay
  | 0xA9 => some (.ldaImm lo)
  | 0xAA => some .tax
  | 0xAC => some (.ldyAbs (word lo hi))
  | 0xAD => some (.ldaAbs (word lo hi))
  | 0xAE => some (.ldxAbs (word lo hi))
  | 0xB0 => some (.bcs lo.toInt)
  | 0xB1 => some (.ldaIzy lo)
  | 0xB4 => some (.ldyZpx lo)
  | 0xB5 => some (.ldaZpx lo)
  | 0xB6 => some (.ldxZpy lo)
  | 0xB8 => some .clv
  | 0xB9 => some (.ldaAbsy (word lo hi))
  | 0xBA => some .tsx
  | 0xBC => some (.ldyAbsx (word lo hi))
  | 0xBD => some (.ldaAbsx (word lo hi))
  | 0xBE => some (.ldxAbsy (word lo hi))
  | 0xC0 => some (.cpyImm lo)
  | 0xC1 => some (.cmpIzx lo)
  | 0xC4 => some (.cpyZp lo)
  | 0xC5 => some (.cmpZp lo)
  | 0xC6 => some (.decZp lo)
  | 0xC8 => some .iny
  | 0xC9 => some (.cmpImm lo)
  | 0xCA => some .dex
  | 0xCC => some (.cpyAbs (word lo hi))
  | 0xCD => some (.cmpAbs (word lo hi))
  | 0xCE => some (.decAbs (word lo hi))
  | 0xD0 => some (.bne lo.toInt)
  | 0xD1 => some (.cmpIzy lo)
  | 0xD5 => some (.cmpZpx lo)
  | 0xD6 => some (.decZpx lo)
  | 0xD8 => some .cld
  | 0xD9 => some (.cmpAbsy (word lo hi))
  | 0xDD => some (.cmpAbsx (word lo hi))
  | 0xDE => some (.decAbsx (word lo hi))
  | 0xE0 => some (.cpxImm lo)
  | 0xE1 => some (.sbcIzx lo)
  | 0xE4 => some (.cpxZp lo)
  | 0xE5 => some (.sbcZp lo)
  | 0xE6 => some (.incZp lo)
  | 0xE8 => some .inx
  | 0xE9 => some (.sbcImm lo)
  | 0xEA => some .nop
  | 0xEC => some (.cpxAbs (word lo hi))
  | 0xED => some (.sbcAbs (word lo hi))
  | 0xEE => some (.incAbs (word lo hi))
  | 0xF0 => some (.beq lo.toInt)
  | 0xF1 => some (.sbcIzy lo)
  | 0xF5 => some (.sbcZpx lo)
  | 0xF6 => some (.incZpx lo)
  | 0xF8 => some .sed
  | 0xF9 => some (.sbcAbsy (word lo hi))
  | 0xFD => some (.sbcAbsx (word lo hi))
  | 0xFE => some (.incAbsx (word lo hi))
  | _ => none

/-- Why bytes are not an instruction. -/
inductive Reject where
  /-- One of the 105 illegal opcode bytes (R76), by the byte. -/
  | illegalOpcode (opc : Byte)
  /-- Fewer bytes than the instruction's length (R71), or none at all. -/
  | truncated
deriving DecidableEq, Repr

/-- The instruction that begins a list of bytes, and the bytes after it (R70, R71). -/
def decode (bytes : List Byte) : Except Reject (Instr × List Byte) :=
  match bytes with
  | [] => .error .truncated
  | opc :: rest =>
    match instrOf opc (rest.getD 0 0) (rest.getD 1 0) with
    | none => .error (.illegalOpcode opc)
    | some i =>
      if i.form.mode.operandLength ≤ rest.length then .ok (i, rest.drop i.form.mode.operandLength)
      else .error .truncated

/-- The operand bytes of a memory operand, in address order (R70, R72; low byte first, 20_memory.md R55). -/
def Operand.bytes (o : Operand) : List Byte :=
  match o with
  | .imm op | .zp op | .zpx op | .zpy op | .izx op | .izy op => [op]
  | .abs addr | .absx addr | .absy addr => [loByte addr, hiByte addr]

/-- The operand bytes of an operand form (R70, R72). -/
def Form.bytes (f : Form) : List Byte :=
  match f with
  | .imp | .acc => []
  | .mem o => o.bytes
  | .ind ptr => [loByte ptr, hiByte ptr]
  | .rel offset => [BitVec.ofInt 8 offset]

/-- The bytes of an instruction: the opcode byte, then its operand bytes (R70). -/
def encode (i : Instr) : List Byte := i.opcode :: i.form.bytes

/-- Byte `k` of an instruction whose bits are `w`, all bits from `nbits` up being 0. -/
def tableByte (nbits w k : Nat) : Byte := BitVec.ofNat 8 ((w % 2 ^ nbits) / 2 ^ (8 * k))

/-- The decoder's reading of an instruction given as a number: bit 0 is the least significant bit of the first byte, a
later byte's bits count on from it, and the bits from `nbits` up are 0 (the longest instruction has three bytes). -/
def decodeTableWord (nbits w : Nat) : Option Instr :=
  match decode [tableByte nbits w 0, tableByte nbits w 1, tableByte nbits w 2] with
  | .ok (i, _) => some i
  | .error _ => none

end Sys2Proof
end

