-- ==== Sys2Proof/Machine/Fetch.lean ====
section
/-! DEFINITION. The dispatcher's parts (60_exceptions.md R230): sampling and servicing an interrupt, and fetching and
decoding an instruction. `Machine/Step.lean` only calls them. -/

namespace Sys2Proof.Machine

open Sys2Proof

/-- A new request: its record of bus cycles and its result begin empty (log entry 8). -/
def State.begin (s : State) : State := (s.setTrace []).setResult none

/-- The interrupt taken at this boundary: NMI before IRQ, IRQ only while `P.I = 0` (R230, R234). -/
def sampledInterrupt (s : State) : Option InterruptSource :=
  if s.pendingNmi then some .nmi
  else if s.pendingIrq && !s.p.i then some .irq
  else none

/-- One interrupt entry in place of an instruction: NMI clears `pending_nmi`, IRQ leaves `pending_irq` (R230, R233). -/
def serviceInterrupt (source : InterruptSource) (s : State) : State :=
  match source with
  | .nmi => interruptEntry nmiVector ((s.setPendingNmi false).setResult (some (.interrupt .nmi)))
  | .irq => interruptEntry irqVector (s.setResult (some (.interrupt .irq)))

/-- The byte the opcode fetch at PC returns (R230). -/
def opcodeByte (s : State) : Byte := s.bus.value s.pc

/-- The state after the opcode `read` alone, "first half of cycle 1", which is where an illegal opcode byte ends the step
(R230, R239): the bus has seen the read, but there is no `tick()`, `cycles` and PC are as before. -/
def opcodeRead (s : State) : State :=
  (s.setBus (s.bus.perform (.read s.pc (opcodeByte s)))).setTrace (s.trace ++ [.read s.pc (opcodeByte s)])

/-- The state after the opcode fetch of a legal opcode, cycle 1 of every instruction: `PC = pc0 + 1` (R230). -/
def opcodeFetched (s : State) : State := (fetchByte (opcodeByte s) s).setResult (some (.executed (opcodeByte s)))

/-- The byte at `pc0 + 1`, as a fetch right after the opcode fetch would return it. -/
def firstOperandByte (s : State) : Byte := (opcodeFetched s).bus.value (s.pc + 1)

/-- The byte at `pc0 + 2`, as a fetch right after the first operand fetch would return it. -/
def secondOperandByte (s : State) : Byte :=
  (fetchByte (firstOperandByte s) (opcodeFetched s)).bus.value (s.pc + 2)

/-- The instruction at PC: its opcode byte selects it and its operand bytes are those its fetch cycles will return
(R70, R71; log entry 7). -/
def fetchInstr (s : State) : Except Reject Instr :=
  match decode [opcodeByte s, firstOperandByte s, secondOperandByte s] with
  | .ok (i, _) => .ok i
  | .error r => .error r

/-- A state whose memory holds the bytes of `w` (numbered as the opcode table numbers bits, those from `nbits` up being 0)
at PC and the two addresses after it, at addresses that read as memory, at an instruction boundary with no interrupt
to take, so that the next step runs them (log entries 5 and 17). -/
def placeInstr (s : State) (nbits w : Nat) : State :=
  let notAtPc (r : Region) : Bool := !(r.holds s.pc || r.holds (s.pc + 1) || r.holds (s.pc + 2))
  let bus : Bus := { s.bus with platform := s.bus.platform.filter (fun r => r.kind != .io || notAtPc r) }
  let bus := ((bus.load s.pc (tableByte nbits w 0)).load (s.pc + 1) (tableByte nbits w 1)).load (s.pc + 2)
    (tableByte nbits w 2)
  (((s.setBus bus).setPhase .boundary).setPendingNmi false).setPendingIrq (s.pendingIrq && s.p.i)

end Sys2Proof.Machine
end

