-- ==== Sys2Proof/Machine/Step.lean ====
section
/-! DEFINITION. One step: `step_instruction()` of 60_exceptions.md R230, "exactly one instruction (or one interrupt
entry)", and the placing of an instruction where the next step fetches it. -/

namespace Sys2Proof.Machine

open Sys2Proof

/-- What `step_instruction()` does at an instruction boundary (R230): an interrupt to take replaces the fetch; an illegal
opcode byte raises the fault after its one read (R239); else the instruction's rule runs after its opcode fetch. -/
def stepAtBoundary (s : State) : Host.Outcome State Fault Refusal :=
  match sampledInterrupt s with
  | some source => .next (serviceInterrupt source s)
  | none =>
    match fetchInstr s with
    | .ok i => exec i (opcodeFetched s)
    | .error _ => .fault (.illegalOpcode (opcodeByte s) s.pc (opcodeRead s))

/-- `step_instruction()` (R230): refused before the first RESET (R261, U3) and inside an instruction (R245, U5). -/
def step (s : State) : Host.Outcome State Fault Refusal :=
  match s.phase with
  | .beforeReset => .refused .stepBeforeReset
  | .inFlight _ => .refused .instructionInFlight
  | .boundary => stepAtBoundary s.begin

/-- `s` with the instruction of bits `w` stored where the next step fetches it. -/
def State.withFetchWord (s : State) (nbits w : Nat) : State := placeInstr s nbits w

end Sys2Proof.Machine
end

