-- ==== Sys2Proof/Machine/Cycle.lean ====
section
/-! DEFINITION. `step_cycle()` (60_exceptions.md R245): the cycles of `step_instruction()`, one per request. -/

namespace Sys2Proof.Machine

open Sys2Proof

/-- The end of an instruction under `step_cycle`: the registers it leaves, and an instruction boundary. -/
def finishFlight (f : InFlight) (s : State) : State := ((s.setRegs f.regs).setPhase .boundary).setResult f.result

/-- One more cycle of the instruction in flight; after the last "the core is at the next boundary in exactly the state
`step_instruction()` would have produced" (R245). DESIGN CHOICE, safe, log entry 19: a request before the last cycle
reports no result (`result` is none), and the last one reports the instruction's; the spec does not say what a
`step_cycle()` that does not end the instruction returns (R6, R244, R245). -/
def continueFlight (f : InFlight) (s : State) : State :=
  match f.todo with
  | [] => finishFlight f s
  | [c] => finishFlight f (s.begin.cycle c)
  | c :: rest => (s.begin.cycle c).setPhase (.inFlight { f with todo := rest })

/-- `step_cycle()` (R245): "If no instruction is in flight, it begins one; otherwise it continues the previously started
instruction." The request that begins one makes the interrupt check and raises IllegalOpcode, and an NMI entry clears
`pending_nmi` there, so that an NMI_REQ inside the entry is not lost (R232). -/
def stepCycle (s : State) : Host.Outcome State Fault Refusal :=
  match s.phase with
  | .inFlight f => .next (continueFlight f s)
  | .beforeReset => .refused .stepBeforeReset
  | .boundary =>
    match step s with
    | .next t => .next (continueFlight ⟨t.trace, t.regs, t.result⟩ (s.setPendingNmi t.pendingNmi))
    | .fault r => .fault r
    | .refused r => .refused r

/-- `k` requests of `step_cycle()`. -/
def stepCycles (k : Nat) (s : State) : Host.Outcome State Fault Refusal :=
  match k with
  | 0 => .next s
  | k + 1 =>
    match stepCycle s with
    | .next t => stepCycles k t
    | .fault r => .fault r
    | .refused r => .refused r

end Sys2Proof.Machine
end

