-- ==== Sys2Proof/Machine/Environment.lean ====
section
/-! DEFINITION. The environment's side of the core: construction (70_reset_and_hazards.md R261), the input events and step
requests (00_scope.md R5; 60_exceptions.md R232, R233), memory loads between steps (20_memory.md R66), and the read-only
accessors (R6). -/

namespace Sys2Proof.Machine

open Sys2Proof

/-- The core constructed around a bus, before its first RESET (R38, R261): every register is an argument, the power-on
A, X, Y, S being open and PC and the flags unspecified; `cycles = 0` and nothing is pending. -/
def State.powerOn (r : Regs) (bus : Bus) : State where
  a := r.a
  x := r.x
  y := r.y
  sp := r.sp
  pc := r.pc
  p := r.p
  cycles := 0
  pendingNmi := false
  pendingIrq := false
  phase := .beforeReset
  bus := bus
  trace := []
  result := none

/-- RESET delivered before the first step or at an instruction boundary (R260, R261); inside an instruction it is outside
the spec (R245, U5). -/
def deliverReset (s : State) : Host.Outcome State Fault Refusal :=
  match s.phase with
  | .inFlight _ => .refused .instructionInFlight
  | .beforeReset | .boundary => .next ((resetSequence s.begin).setPhase .boundary)

/-- NMI_REQ: `pending_nmi <- 1` (R232). -/
def nmiReq (s : State) : State := s.setPendingNmi true

/-- IRQ_SET: `pending_irq <- 1` (R233). -/
def irqSet (s : State) : State := s.setPendingIrq true

/-- IRQ_CLEAR: `pending_irq <- 0` (R233). -/
def irqClear (s : State) : State := s.setPendingIrq false

/-- The environment changes a byte of memory between steps (20_memory.md R66); inside an instruction the model refuses it
(log entry 10). -/
def loadByte (addr : Word) (v : Byte) (s : State) : Host.Outcome State Fault Refusal :=
  match s.phase with
  | .inFlight _ => .refused .instructionInFlight
  | .beforeReset | .boundary => .next (s.setBus (s.bus.load addr v))

/-- What the environment can ask of the core and its bus (R5, R66). -/
inductive Request where
  | stepInstruction
  | stepCycle
  | reset
  | nmiReq
  | irqSet
  | irqClear
  | load (addr : Word) (v : Byte)
deriving DecidableEq, Repr

/-- One request. -/
def serve (q : Request) (s : State) : Host.Outcome State Fault Refusal :=
  match q with
  | .stepInstruction => step s
  | .stepCycle => stepCycle s
  | .reset => deliverReset s
  | .nmiReq => .next (nmiReq s)
  | .irqSet => .next (irqSet s)
  | .irqClear => .next (irqClear s)
  | .load addr v => loadByte addr v s

/-- Requests in order, stopping at the first fault or refusal. -/
def serveAll (qs : List Request) (s : State) : Host.Outcome State Fault Refusal :=
  match qs with
  | [] => .next s
  | q :: rest =>
    match serve q s with
    | .next t => serveAll rest t
    | .fault r => .fault r
    | .refused r => .refused r

/-- What the accessors show (R6): P is the packed view of R24. -/
structure Accessors where
  a : Byte
  x : Byte
  y : Byte
  s : Byte
  pc : Word
  p : Byte
  cycles : Counter
deriving DecidableEq, Repr

/-- "read-only accessors for `A, X, Y, S, PC, P, cycles`" (R6). While an instruction is in flight "the accessor values are
unspecified" (R245, U4): free values, log entry 10. -/
def State.accessors (s : State) : Accessors :=
  match s.phase with
  | .beforeReset | .boundary => ⟨s.a, s.x, s.y, s.sp, s.pc, s.p.pack, s.cycles⟩
  | .inFlight _ =>
    let n := s.cycles.toNat
    ⟨Config.midFlightByte 0 n, Config.midFlightByte 1 n, Config.midFlightByte 2 n, Config.midFlightByte 3 n,
      Config.midFlightWord n, Config.midFlightByte 4 n, Config.midFlightCount n⟩

end Sys2Proof.Machine
end

