-- ==== Sys2Proof/Safety.lean ====
section
/-! DEFINITION. The terms the claims use: what a state shows of memory and the stack, what an instruction leaves
unchanged, what it costs, what the bus saw, and the invariant of the machine. -/

namespace Sys2Proof.Machine

open Sys2Proof

/-- The byte held at an address: what a read returns where the platform has RAM or ROM (20_memory.md R53). -/
def State.peek (s : State) (a : Word) : Byte := Memory.read s.bus.mem a.toNat

/-- Every byte of memory reads as before. -/
def MemoryUnchanged (s t : State) : Prop := ∀ a : Word, t.peek a = s.peek a

/-- Every byte of memory outside a list of addresses reads as before. -/
def MemoryUnchangedBut (addrs : List Word) (s t : State) : Prop := ∀ a : Word, a ∉ addrs → t.peek a = s.peek a

/-- The byte an address holds after a write of `v` to it: `v` in RAM; what it held anywhere else (R52, R53). -/
def storedByte (s : State) (a : Word) (v : Byte) : Byte := if s.bus.kindAt a = .ram then v else s.peek a

/-- `v` was written to `ea` and nothing else was. -/
def StoredAt (ea : Word) (v : Byte) (s t : State) : Prop :=
  t.peek ea = storedByte s ea v ∧ MemoryUnchangedBut [ea] s t

/-- The whole stack page is RAM. -/
def StackIsRam (s : State) : Prop := ∀ sp : Byte, s.bus.kindAt (stackAddr sp) = .ram

/-- What no instruction changes: both pending bits, the phase, the platform's map, and the step result recorded by the
dispatcher (10_state.md R33, R34). -/
def ControlKept (s t : State) : Prop :=
  t.pendingNmi = s.pendingNmi ∧ t.pendingIrq = s.pendingIrq ∧ t.phase = s.phase ∧ t.bus.platform = s.bus.platform ∧
    t.result = s.result

/-- A, X, Y and S are as before. -/
def RegistersKept (s t : State) : Prop := t.a = s.a ∧ t.x = s.x ∧ t.y = s.y ∧ t.sp = s.sp

/-- Z and N are those of the byte `v` (10_state.md R30), as numbers. -/
def ShowsZN (v : Byte) (q : Flags) : Prop := q.z = decide (v.toNat = 0) ∧ q.n = decide (128 ≤ v.toNat)

/-- SetZN of `v` and no other flag: Z and N from `v`; V, D, I, C as before. -/
def OnlyZN (v : Byte) (p q : Flags) : Prop := ShowsZN v q ∧ q.v = p.v ∧ q.d = p.d ∧ q.i = p.i ∧ q.c = p.c

/-- The rows of the dispatch table that a mnemonic has, in opcode order: opcode byte, mode, length, base cycles,
page-cross-adds flag (30_encoding.md R74). -/
def formsOf (m : Mnemonic) : List (Nat × Mode × Nat × Nat × Bool) :=
  (dispatchRows.filter (fun r => r.2.mnemonic == m)).map
    (fun r => (r.1, r.2.mode, 1 + r.2.mode.operandLength, r.2.baseCycles, r.2.pageCrossAdds))

/-- Whether a branch is taken (47_control_flow.md R181 to R188). No other mnemonic branches. -/
def branchTaken (m : Mnemonic) (p : Flags) : Bool :=
  match m with
  | .bpl => !p.n
  | .bmi => p.n
  | .bvc => !p.v
  | .bvs => p.v
  | .bcc => !p.c
  | .bcs => p.c
  | .bne => !p.z
  | .beq => p.z
  | _ => false

/-- The page-cross-adds flag of an instruction's table row (R73, R96). -/
def Instr.pageCrossAdds (i : Instr) : Bool := (dispatchTable i.opcode).any (fun e => e.pageCrossAdds)

/-- The cycles beyond the base count, for the state after the opcode fetch: one for a page cross where the row says so
(R96); for a taken branch one, and one more when the target is in another page (R180). -/
def Instr.penalty (i : Instr) (s : State) : Nat :=
  match i.form with
  | .mem o => if Instr.pageCrossAdds i && (resolve o .read s).crossed then 1 else 0
  | .rel offset =>
    if branchTaken i.mnemonic s.p then (if (resolveRelative offset s).crossed then 2 else 1) else 0
  | .imp | .acc | .ind _ => 0

/-- From `s` to `t` the bus saw exactly the cycles `cs`, in this order: they are the record, the cycle counter advanced by
their number, and the bus is what they made of it (20_memory.md R54, R60). -/
def Performed (cs : List BusCycle) (s t : State) : Prop :=
  t.trace = s.trace ++ cs ∧ t.cycles = s.cycles + BitVec.ofNat 64 cs.length ∧ t.bus = cs.foldl Bus.perform s.bus

/-- Every read of the list is answered by the bus "at its place in that sequence" (R60). -/
def Answered (b : Bus) (cs : List BusCycle) : Prop :=
  match cs with
  | [] => True
  | .read a v :: rest => v = b.value a ∧ Answered (b.perform (.read a v)) rest
  | c :: rest => Answered (b.perform c) rest

/-- From `s` (after the opcode fetch) to `t` the instruction took its base cycles and its penalty, less the opcode fetch
(70_reset_and_hazards.md R266). -/
def Costs (i : Instr) (s t : State) : Prop :=
  ∃ e cs, dispatchTable i.opcode = some e ∧ Performed cs s t ∧ 1 + cs.length = e.baseCycles + Instr.penalty i s

/-- The byte a read-class instruction takes from its operand. -/
def operandByte (o : Operand) (s : State) : Byte := (readOperand o s).1

/-- What every read-class instruction leaves besides its result: PC past the operand bytes, S, memory and control as
before; its last cycle is the one read at the effective address, after the cycles of the resolver (R80, R95). -/
def ReadsOperand (i : Instr) (o : Operand) (s t : State) : Prop :=
  t.pc = s.pc + BitVec.ofNat 16 o.bytes.length ∧ t.sp = s.sp ∧ MemoryUnchanged s t ∧ ControlKept s t ∧ Costs i s t ∧
    t.trace = (resolve o .read s).after.trace ++ [.read (resolve o .read s).ea (operandByte o s)]

/-- What every read-modify-write instruction does at its effective address (20_memory.md R61): it finds `old` there and
writes `old`, then `new`; registers and control as before. -/
def ModifiesOperand (i : Instr) (o : Operand) (old new : Byte) (s t : State) : Prop :=
  let r := resolve o .rmw s
  old = r.after.bus.value r.ea ∧ StoredAt r.ea new s t ∧ RegistersKept s t ∧
    t.pc = s.pc + BitVec.ofNat 16 o.bytes.length ∧ ControlKept s t ∧ Costs i s t ∧
    t.trace = r.after.trace ++ [.read r.ea old, .write r.ea old, .write r.ea new]

/-- What a shift or rotate makes of `old` with carry in `cin`, as numbers (45_shifts.md R160 to R163). -/
def ShiftsTo (m : Mnemonic) (cin : Bool) (old new : Byte) (cout : Bool) : Prop :=
  (m = .asl → new.toNat = 2 * old.toNat % 256 ∧ cout = decide (128 ≤ old.toNat)) ∧
  (m = .lsr → new.toNat = old.toNat / 2 ∧ cout = decide (old.toNat % 2 = 1)) ∧
  (m = .rol → new.toNat = 2 * old.toNat % 256 + cin.toNat ∧ cout = decide (128 ≤ old.toNat)) ∧
  (m = .ror → new.toNat = old.toNat / 2 + 128 * cin.toNat ∧ cout = decide (old.toNat % 2 = 1))

/-- The 105 illegal opcode bytes, as 30_encoding.md R76 lists them. -/
def illegalOpcodeBytes : List Byte :=
  [0x02#8, 0x03#8, 0x04#8, 0x07#8, 0x0B#8, 0x0C#8, 0x0F#8, 0x12#8, 0x13#8, 0x14#8, 0x17#8, 0x1A#8, 0x1B#8,
    0x1C#8, 0x1F#8, 0x22#8, 0x23#8, 0x27#8, 0x2B#8, 0x2F#8, 0x32#8, 0x33#8, 0x34#8, 0x37#8, 0x3A#8, 0x3B#8,
    0x3C#8] ++
  [0x3F#8, 0x42#8, 0x43#8, 0x44#8, 0x47#8, 0x4B#8, 0x4F#8, 0x52#8, 0x53#8, 0x54#8, 0x57#8, 0x5A#8, 0x5B#8,
    0x5C#8, 0x5F#8, 0x62#8, 0x63#8, 0x64#8, 0x67#8, 0x6B#8, 0x6F#8, 0x72#8, 0x73#8, 0x74#8, 0x77#8, 0x7A#8,
    0x7B#8] ++
  [0x7C#8, 0x7F#8, 0x80#8, 0x82#8, 0x83#8, 0x87#8, 0x89#8, 0x8B#8, 0x8F#8, 0x92#8, 0x93#8, 0x97#8, 0x9B#8,
    0x9C#8, 0x9E#8, 0x9F#8, 0xA3#8, 0xA7#8, 0xAB#8, 0xAF#8, 0xB2#8, 0xB3#8, 0xB7#8, 0xBB#8, 0xBF#8, 0xC2#8,
    0xC3#8] ++
  [0xC7#8, 0xCB#8, 0xCF#8, 0xD2#8, 0xD3#8, 0xD4#8, 0xD7#8, 0xDA#8, 0xDB#8, 0xDC#8, 0xDF#8, 0xE2#8, 0xE3#8,
    0xE7#8, 0xEB#8, 0xEF#8, 0xF2#8, 0xF3#8, 0xF4#8, 0xF7#8, 0xFA#8, 0xFB#8, 0xFC#8, 0xFF#8]

/-- The invariant of the machine: memory is in its canonical form, and an instruction in flight has 1 to 6 cycles left
(the shortest step is 2 cycles, the longest 7; 70_reset_and_hazards.md R267). -/
def State.Inv (s : State) : Prop :=
  s.bus.mem.wf = true ∧ ∀ f, s.phase = .inFlight f → 1 ≤ f.todo.length ∧ f.todo.length ≤ 6

end Sys2Proof.Machine
end

