-- ==== Sys2Proof/Certificates/Slice0/Obligations.lean ====
section
/-! DEFINITION. The statements about the model, from the numbered rules of spec/. `exec i s` runs an instruction's rule on
the state after its opcode fetch, so in a statement about `exec` the address of the opcode is `pc0 = s.pc - 1`. Opcode bytes,
cycle counts and the places of idle cycles are those the numbered rules give; the rules mark many of them as the spec's
general knowledge (K1 to K13) or its own decisions (D1 to D35), log entry 12. -/

open Sys2Proof Sys2Proof.Machine

/-! Encoding. -/

/-- Decoding the bytes of a well-formed instruction, whatever follows them, gives it back with every operand (R70 to R74). -/
def Obligations.DecodeOfEncodeIsTheInstruction : Prop :=
  ∀ (i : Instr) (rest : List Byte), i.wellFormed = true → decode (encode i ++ rest) = .ok (i, rest)

/-- Bytes that decode are the bytes the encoder gives for the decoded instruction, which is well formed: no two byte strings
mean the same instruction and no operand bit is ignored. -/
def Obligations.EncodeOfDecodeIsTheBytes : Prop :=
  ∀ (bytes rest : List Byte) (i : Instr), decode bytes = .ok (i, rest) → i.wellFormed = true ∧ encode i ++ rest = bytes

/-- Exactly the 105 bytes of R76 are refused as opcodes, each by name; 105 of them are listed. -/
def Obligations.IllegalBytesAreExactlyThoseOfTheList : Prop :=
  illegalOpcodeBytes.length = 105 ∧ illegalOpcodeBytes.Nodup ∧
  ∀ (opc : Byte) (rest : List Byte), decode (opc :: rest) = .error (.illegalOpcode opc) ↔ opc ∈ illegalOpcodeBytes

/-- The dispatch table and the decoder agree on every opcode byte: the instruction selected has the row's mnemonic, mode and
opcode byte, and there is one exactly where the table has a row (R73, R74). -/
def Obligations.DecoderFollowsTheDispatchTable : Prop :=
  ∀ opc lo hi : Byte,
    (instrOf opc lo hi).map (fun i => (i.mnemonic, i.form.mode, i.opcode)) =
      (dispatchTable opc).map (fun e => (e.mnemonic, e.mode, opc))

/-- The table's page-cross-adds flag is set for exactly the 23 entries R96 enumerates. -/
def Obligations.PageCrossFlagIsThatOfReadsInIndexedModes : Prop :=
  (dispatchRows.countP (fun r => r.2.pageCrossAdds)) = 23 ∧
  ∀ r ∈ dispatchRows, r.2.pageCrossAdds =
    ((r.2.mnemonic ∈ [.adc, .and, .cmp, .eor, .lda, .ora, .sbc] && r.2.mode ∈ [.absx, .absy, .izy]) ||
      (r.2.mnemonic == .ldx && r.2.mode == .absy) || (r.2.mnemonic == .ldy && r.2.mode == .absx) : Bool)

/-- Words written out from the tables of R72 and R74 decode to the instructions they stand for. -/
def Obligations.WordsOfTheSpecDecode : Prop :=
  decode [0xBD#8, 0xF0#8, 0x12#8] = .ok (.ldaAbsx 0x12F0#16, []) ∧ decode [0x9D#8, 0x00#8, 0x12#8] = .ok (.staAbsx 0x1200#16, []) ∧
  decode [0xAA#8] = .ok (.tax, []) ∧ decode [0x69#8, 0x27#8] = .ok (.adcImm 0x27#8, []) ∧
  decode [0x31#8, 0x80#8] = .ok (.andIzy 0x80#8, []) ∧ decode [0xC6#8, 0x10#8] = .ok (.decZp 0x10#8, []) ∧
  decode [0x6A#8] = .ok (.rorAcc, []) ∧ decode [0xC9#8, 0x0A#8] = .ok (.cmpImm 0x0A#8, []) ∧
  decode [0xD0#8, 0xFA#8] = .ok (.bne (-6), []) ∧ decode [0x6C#8, 0xFF#8, 0x12#8] = .ok (.jmpInd 0x12FF#16, []) ∧
  decode [0x28#8] = .ok (.plp, []) ∧ decode [0x40#8] = .ok (.rti, [])

/-! The step. -/

/-- At an instruction boundary with no interrupt to take, when the bytes a fetch returns at PC decode to `i`, the step is
`exec i` on the state after the opcode fetch: PC past the opcode byte, one cycle, that one read as the record so far, the
result `Executed(opc)`, and all else as before (R230). The bytes are those in memory where PC is not in an IO region. -/
def Obligations.StepRunsTheDecodedInstruction : Prop :=
  ∀ (s : State) (b0 b1 b2 : Byte) (i : Instr) (rest : List Byte), s.phase = .boundary → s.pendingNmi = false →
    (s.pendingIrq = false ∨ s.p.i = true) →
    Answered s.bus [.read s.pc b0, .read (s.pc + 1) b1, .read (s.pc + 2) b2] →
    decode [b0, b1, b2] = .ok (i, rest) →
    step s = exec i { s with
      pc := s.pc + 1
      cycles := s.cycles + 1
      bus := s.bus.perform (.read s.pc b0)
      trace := [.read s.pc b0]
      result := some (.executed b0) }

/-- An illegal opcode byte at a boundary with no interrupt to take raises IllegalOpcode with the byte and `pc0`, under
`step_instruction` and `step_cycle` alike (R239, R245). The state left has PC, every register, flag and pending bit and
`cycles` as before; the bus has seen the one read. Where PC is not in an IO region, the next step from it raises the same
fault again. -/
def Obligations.IllegalOpcodeFaultsWithByteAndPc : Prop :=
  ∀ s : State, s.phase = .boundary → s.pendingNmi = false → (s.pendingIrq = false ∨ s.p.i = true) →
    s.bus.value s.pc ∈ illegalOpcodeBytes →
    let byte := s.bus.value s.pc
    let left : State :=
      { s with bus := s.bus.perform (.read s.pc byte), trace := [.read s.pc byte], result := none }
    step s = .fault (.illegalOpcode byte s.pc left) ∧ stepCycle s = .fault (.illegalOpcode byte s.pc left) ∧
      (s.bus.kindAt s.pc ≠ .io → step left = step s)

/-- A step stops in no other way: a fault is IllegalOpcode at a boundary with no interrupt to take and an illegal byte at PC,
and a refusal comes only from a request before the first RESET or inside an instruction (R241, R245, R261). -/
def Obligations.StepStopsOnlyOnIllegalOpcodeOrOutsideABoundary : Prop :=
  (∀ (s : State) (r : Fault), step s = .fault r →
    s.phase = .boundary ∧ s.pendingNmi = false ∧ (s.pendingIrq = false ∨ s.p.i = true) ∧
      s.bus.value s.pc ∈ illegalOpcodeBytes ∧ ∃ left, r = .illegalOpcode (s.bus.value s.pc) s.pc left) ∧
  (∀ (s : State) (r : Refusal), step s = .refused r →
    (s.phase = .beforeReset ∧ r = .stepBeforeReset) ∨ (∃ f, s.phase = .inFlight f) ∧ r = .instructionInFlight) ∧
  ∀ s : State, (s.phase = .beforeReset → step s = .refused .stepBeforeReset ∧ stepCycle s = .refused .stepBeforeReset) ∧
    ∀ f, s.phase = .inFlight f → step s = .refused .instructionInFlight ∧ deliverReset s = .refused .instructionInFlight

/-! Interrupts and RESET. -/

/-- NMI and IRQ entry (R235) in place of an instruction: NMI at any boundary where `pending_nmi` is 1, whatever I and
`pending_irq` are, IRQ at one where `pending_irq` is 1, I is 0 and no NMI is pending (R230, R234). NMI clears its pending
bit, IRQ leaves its own (R233). -/
def Obligations.InterruptEntryOfNmiAndIrq : Prop :=
  ∀ (source : InterruptSource) (s : State), s.phase = .boundary → s.bus.mem.wf = true →
    (source = .nmi → s.pendingNmi = true) →
    (source = .irq → s.pendingNmi = false ∧ s.pendingIrq = true ∧ s.p.i = false) →
    let vec : Word := if source = .nmi then 0xFFFA#16 else 0xFFFE#16
    ∃ (t : State) (dummy lo hi : Byte), step s = .next t ∧
      t.trace = [.read s.pc dummy, .idle, .write (stackAddr s.sp) (hiByte s.pc), .write (stackAddr (s.sp - 1)) (loByte s.pc),
        .write (stackAddr (s.sp - 2)) s.p.packIrq, .read vec lo, .read (vec + 1) hi] ∧
      Answered s.bus t.trace ∧ t.bus = t.trace.foldl Bus.perform s.bus ∧ t.pc = word lo hi ∧ t.sp = s.sp - 3 ∧
      t.p = { s.p with i := true } ∧ t.cycles = s.cycles + 7 ∧ t.pendingNmi = false ∧ t.pendingIrq = s.pendingIrq ∧
      t.a = s.a ∧ t.x = s.x ∧ t.y = s.y ∧ t.phase = .boundary ∧ t.result = some (.interrupt source) ∧
      t.peek (stackAddr s.sp) = storedByte s (stackAddr s.sp) (hiByte s.pc) ∧
      t.peek (stackAddr (s.sp - 1)) = storedByte s (stackAddr (s.sp - 1)) (loByte s.pc) ∧
      t.peek (stackAddr (s.sp - 2)) = storedByte s (stackAddr (s.sp - 2)) s.p.packIrq ∧
      MemoryUnchangedBut [stackAddr s.sp, stackAddr (s.sp - 1), stackAddr (s.sp - 2)] s t

/-- The priority at a boundary and the pending bits (R33, R34, R234): a step that completes is an NMI entry exactly when
`pending_nmi` was 1, an IRQ entry exactly when it was 0, `pending_irq` was 1 and I was 0, and else the execution of the
opcode byte at PC, a legal one. It leaves `pending_nmi` 0 and `pending_irq` as it was; the input events write one bit. -/
def Obligations.InterruptsAreTakenExactlyWhenPending : Prop :=
  (∀ s t : State, step s = .next t →
    t.result = some (if s.pendingNmi then .interrupt .nmi else if s.pendingIrq && !s.p.i then .interrupt .irq
      else .executed (s.bus.value s.pc)) ∧
    (s.bus.value s.pc ∈ illegalOpcodeBytes → s.pendingNmi = true ∨ s.pendingIrq = true ∧ s.p.i = false) ∧
    t.pendingNmi = false ∧ t.pendingIrq = s.pendingIrq) ∧
  ∀ s : State, serve .nmiReq s = .next { s with pendingNmi := true } ∧
    serve .irqSet s = .next { s with pendingIrq := true } ∧ serve .irqClear s = .next { s with pendingIrq := false }

/-- RESET (R260), delivered before the first step or at any boundary: five idle cycles, two vector reads, every flag, S - 3
with no write, A, X, Y and memory as before, 7 cycles, both pending bits cleared. The place of the idle cycles is the spec's
decision D15. -/
def Obligations.ResetSequence : Prop :=
  ∀ s : State, (s.phase = .boundary ∨ s.phase = .beforeReset) →
    ∃ (t : State) (lo hi : Byte), deliverReset s = .next t ∧
      t.trace = [.idle, .idle, .idle, .idle, .idle, .read 0xFFFC#16 lo, .read 0xFFFD#16 hi] ∧ Answered s.bus t.trace ∧
      t.pc = word lo hi ∧ t.sp = s.sp - 3 ∧ t.p = ⟨false, false, false, true, false, false⟩ ∧ t.p.pack = 0x24#8 ∧
      t.cycles = s.cycles + 7 ∧ t.pendingNmi = false ∧ t.pendingIrq = false ∧ t.a = s.a ∧ t.x = s.x ∧ t.y = s.y ∧
      t.phase = .boundary ∧ t.bus.mem = s.bus.mem ∧ t.bus.platform = s.bus.platform

/-- Power-on (R38, R261): whatever the registers, PC and flags of construction are, the first RESET leaves `cycles = 7`, S
reduced by 3, `P = $24`, PC from the vector, A, X, Y as constructed. -/
def Obligations.FirstResetAfterPowerOn : Prop :=
  ∀ (r : Regs) (bus : Bus), ∃ (t : State) (lo hi : Byte), deliverReset (State.powerOn r bus) = .next t ∧
    t.a = r.a ∧ t.x = r.x ∧ t.y = r.y ∧ t.sp = r.sp - 3 ∧ t.p.pack = 0x24#8 ∧ t.cycles = 7 ∧ t.pendingNmi = false ∧
    t.pendingIrq = false ∧ Answered bus [.read 0xFFFC#16 lo, .read 0xFFFD#16 hi] ∧ t.pc = word lo hi ∧
    t.bus.mem = bus.mem ∧ t.bus.platform = bus.platform ∧ t.phase = .boundary

/-- The model's choice, log entries 1, 2 and 3: `State.reset` is what the first RESET leaves of a core constructed with A, X,
Y, S all `$00`, any PC and flags, around a bus that lists nothing. -/
def Obligations.ResetStateIsPowerOnThenReset : Prop :=
  ∀ (pc : Word) (p : Flags), deliverReset (State.powerOn ⟨0, 0, 0, 0, pc, p⟩ ⟨[], [], 0⟩) = .next State.reset

/-! The invariant. -/

/-- The invariant holds of the state after reset, whatever values the model chose there. -/
def Obligations.ResetHasTheInvariant : Prop := State.reset.Inv

/-- Every step keeps the invariant. -/
def Obligations.StepKeepsTheInvariant : Prop := ∀ s t : State, s.Inv → step s = .next t → t.Inv

/-- So does every request of the environment: steps by instruction or by cycle, RESET, input events, memory loads. The state
that a faulting step leaves has it too. -/
def Obligations.EveryRequestKeepsTheInvariant : Prop :=
  ∀ (q : Request) (s : State), s.Inv →
    (∀ t, serve q s = .next t → t.Inv) ∧
    ∀ (byte : Byte) (pc : Word) (left : State), serve q s = .fault (.illegalOpcode byte pc left) → left.Inv

/-- The accessors (R6) at an instruction boundary and before the first RESET show A, X, Y, S, PC, `cycles` and the packed view
of P. In every state the packed view has the flags at their positions, bit 5 as 1 and bit 4 as 0, and the stack address is in
page 1 (R21, R23, R24, R36). That bit 4 reads 0 is the spec's own decision D13, log entry 11. Inside an instruction the
accessors are free values (R245, U4; log entry 10). -/
def Obligations.AccessorPAndStackPage : Prop :=
  ∀ s : State,
    (s.phase = .boundary ∨ s.phase = .beforeReset →
      s.accessors.p.toNat = 128 * s.p.n.toNat + 64 * s.p.v.toNat + 32 + 8 * s.p.d.toNat + 4 * s.p.i.toNat +
        2 * s.p.z.toNat + s.p.c.toNat ∧
      s.accessors.a = s.a ∧ s.accessors.x = s.x ∧ s.accessors.y = s.y ∧ s.accessors.s = s.sp ∧ s.accessors.pc = s.pc ∧
      s.accessors.cycles = s.cycles) ∧
    s.p.pack.toNat = 128 * s.p.n.toNat + 64 * s.p.v.toNat + 32 + 8 * s.p.d.toNat + 4 * s.p.i.toNat +
      2 * s.p.z.toNat + s.p.c.toNat ∧
    (stackAddr s.sp).toNat = 0x100 + s.sp.toNat ∧ 0x100 ≤ (stackAddr s.sp).toNat ∧ (stackAddr s.sp).toNat ≤ 0x1FF

/-- The pushed copies and their inverse (R27, R28, R29): PHP's and BRK's copy is the packed view with bits 5 and 4 set, an
interrupt's copy has bit 5 set and bit 4 clear, and unpacking ignores bits 5 and 4. The clauses that compare with the packed
view (`packPhp` is `pack` plus 16, `packIrq` is `pack`, an unpacked byte packs with bit 4 clear) rest on bit 4 of that view
(R24) being 0: the spec's own decision D13, DESIGN CHOICE, log entry 11. -/
def Obligations.PushedCopiesOfP : Prop :=
  ∀ (p : Flags) (v : Byte), p.packPhp.toNat = p.pack.toNat + 16 ∧ p.packIrq = p.pack ∧ Flags.unpack p.packPhp = p ∧
    Flags.unpack p.packIrq = p ∧ (Flags.unpack v).pack = (v &&& ~~~0x10#8) ||| 0x20#8

/-! Memory and the resolver. -/

/-- The bus as the core sees it (R52, R53): after a write, RAM reads back the byte, ROM what it held, and every other address
of RAM and ROM is as it was; a read changes no memory. What is said of an IO address is the model's choice, DESIGN CHOICE,
log entry 4, and no rule: that it answers the free value of the draw counter, that a read there moves on to the next draw,
and (the clause on `c`, where `c` is IO) that a write elsewhere leaves its next answer as it was. -/
def Obligations.BusReadsAndWrites : Prop :=
  ∀ (b : Bus) (a c : Word) (v w : Byte), b.mem.wf = true →
    (b.kindAt a = .ram → (b.perform (.write a v)).value a = v) ∧
    (b.kindAt a = .rom → (b.perform (.write a v)).value a = b.value a) ∧
    (c ≠ a → (b.perform (.write a v)).value c = b.value c) ∧
    (b.perform (.read a w)).mem = b.mem ∧ (b.kindAt a ≠ .io → b.perform (.read a w) = b) ∧
    (b.kindAt a = .io → b.value a = Config.busDraw b.draws ∧ (b.perform (.read a w)).draws = b.draws + 1)

/-- The modes without a pointer (R83 to R89, R94): the effective address as a number with its wraps, whether a page is
crossed, and the cycles. An indexed absolute mode has its idle cycle for a read only when a page is crossed, and always
for a write or a read-modify-write. -/
def Obligations.ResolveDirectAndIndexedModes : Prop :=
  ∀ (cls : AccessClass) (s : State) (op : Byte) (addr : Word),
    let fetched : List BusCycle := [.read s.pc (loByte addr), .read (s.pc + 1) (hiByte addr)]
    let imm := resolve (.imm op) cls s
    let zp := resolve (.zp op) cls s
    let zpx := resolve (.zpx op) cls s
    let zpy := resolve (.zpy op) cls s
    let abs := resolve (.abs addr) cls s
    let absx := resolve (.absx addr) cls s
    let absy := resolve (.absy addr) cls s
    (imm.ea = s.pc ∧ imm.crossed = false ∧ imm.after = { s with pc := s.pc + 1 }) ∧
    (zp.ea.toNat = op.toNat ∧ zp.crossed = false ∧ Performed [.read s.pc op] s zp.after) ∧
    (zpx.ea.toNat = (op.toNat + s.x.toNat) % 256 ∧ zpx.crossed = false ∧ Performed [.read s.pc op, .idle] s zpx.after) ∧
    (zpy.ea.toNat = (op.toNat + s.y.toNat) % 256 ∧ zpy.crossed = false ∧ Performed [.read s.pc op, .idle] s zpy.after) ∧
    (abs.ea = addr ∧ abs.crossed = false ∧ Performed fetched s abs.after) ∧
    (absx.ea.toNat = (addr.toNat + s.x.toNat) % 65536 ∧
      absx.crossed = decide (absx.ea.toNat / 256 ≠ addr.toNat / 256) ∧
      Performed (fetched ++ if cls ≠ .read ∨ absx.crossed = true then [.idle] else []) s absx.after) ∧
    (absy.ea.toNat = (addr.toNat + s.y.toNat) % 65536 ∧
      absy.crossed = decide (absy.ea.toNat / 256 ≠ addr.toNat / 256) ∧
      Performed (fetched ++ if cls ≠ .read ∨ absy.crossed = true then [.idle] else []) s absy.after)

/-- (Indirect,X) and (Indirect),Y (R91, R92, R94): the two pointer bytes `lo` and `hi` are what the bus answers at two
addresses that both wrap inside page 0; the effective address is the word they make, for (Indirect),Y plus Y modulo
65536. -/
def Obligations.ResolvePointerModes : Prop :=
  ∀ (cls : AccessClass) (s : State) (op : Byte),
    (∃ (p q : Word) (lo hi : Byte), p.toNat = (op.toNat + s.x.toNat) % 256 ∧ q.toNat = (op.toNat + s.x.toNat + 1) % 256 ∧
      Answered (s.bus.perform (.read s.pc op)) [.read p lo, .read q hi] ∧
      (let izx := resolve (.izx op) cls s
       izx.ea.toNat = lo.toNat + 256 * hi.toNat ∧ izx.crossed = false ∧
         Performed [.read s.pc op, .idle, .read p lo, .read q hi] s izx.after)) ∧
    ∃ (p q : Word) (lo hi : Byte), p.toNat = op.toNat ∧ q.toNat = (op.toNat + 1) % 256 ∧
      Answered (s.bus.perform (.read s.pc op)) [.read p lo, .read q hi] ∧
      (let izy := resolve (.izy op) cls s
       izy.ea.toNat = (lo.toNat + 256 * hi.toNat + s.y.toNat) % 65536 ∧
         izy.crossed = decide (izy.ea.toNat / 256 ≠ hi.toNat) ∧
         Performed ([.read s.pc op, .read p lo, .read q hi] ++ if cls ≠ .read ∨ izy.crossed = true then [.idle] else [])
           s izy.after)

/-- The resolver "changes no state other than `PC` and `cycles`, and issues only reads" (R80): PC moves past the operand
bytes, and no cycle it performs is a write. -/
def Obligations.ResolverOnlyReadsAndMovesPc : Prop :=
  ∀ (o : Operand) (cls : AccessClass) (s : State), ∃ cs : List BusCycle,
    Performed cs s (resolve o cls s).after ∧ (∀ a v, BusCycle.write a v ∉ cs) ∧
      (resolve o cls s).after.pc = s.pc + BitVec.ofNat 16 o.bytes.length ∧ RegistersKept s (resolve o cls s).after ∧
      (resolve o cls s).after.p = s.p ∧ MemoryUnchanged s (resolve o cls s).after ∧
      ControlKept s (resolve o cls s).after

/-- The byte of a read-class operand is the one the bus answers at the effective address, after the resolver's cycles; in
mode IMM it is the operand byte itself (R83, R95). -/
def Obligations.OperandByteIsTheBusAnswerAtTheEffectiveAddress : Prop :=
  ∀ (o : Operand) (s : State), (∀ op, o = .imm op → operandByte o s = op) ∧
    ((∀ op, o ≠ .imm op) → operandByte o s = (resolve o .read s).after.bus.value (resolve o .read s).ea)

/-! Loads, stores, transfers. -/

/-- LDA, LDX, LDY in every mode (R120, R121, R122): the register takes the operand byte, Z and N follow it, nothing else
changes but PC, the cycle count and the record of the bus. -/
def Obligations.LoadsTakeTheOperandByteAndSetZN : Prop :=
  formsOf .lda = [(0xA1, .izx, 2, 6, false), (0xA5, .zp, 2, 3, false), (0xA9, .imm, 2, 2, false),
    (0xAD, .abs, 3, 4, false), (0xB1, .izy, 2, 5, true), (0xB5, .zpx, 2, 4, false),
    (0xB9, .absy, 3, 4, true), (0xBD, .absx, 3, 4, true)] ∧
  formsOf .ldx = [(0xA2, .imm, 2, 2, false), (0xA6, .zp, 2, 3, false), (0xAE, .abs, 3, 4, false),
    (0xB6, .zpy, 2, 4, false), (0xBE, .absy, 3, 4, true)] ∧
  formsOf .ldy = [(0xA0, .imm, 2, 2, false), (0xA4, .zp, 2, 3, false), (0xAC, .abs, 3, 4, false),
    (0xB4, .zpx, 2, 4, false), (0xBC, .absx, 3, 4, true)] ∧
  ∀ (i : Instr) (o : Operand) (s : State), i.form = .mem o → i.mnemonic ∈ [.lda, .ldx, .ldy] →
    ∃ t, exec i s = .next t ∧ ReadsOperand i o s t ∧ OnlyZN (operandByte o s) s.p t.p ∧
      t.a = (if i.mnemonic = .lda then operandByte o s else s.a) ∧
      t.x = (if i.mnemonic = .ldx then operandByte o s else s.x) ∧
      t.y = (if i.mnemonic = .ldy then operandByte o s else s.y)

/-- STA, STX, STY in every mode (R123, R124, R125): one write of the register at the effective address and no read of it;
flags, registers and every other byte as before. -/
def Obligations.StoresWriteTheRegisterAtTheEffectiveAddress : Prop :=
  formsOf .sta = [(0x81, .izx, 2, 6, false), (0x85, .zp, 2, 3, false), (0x8D, .abs, 3, 4, false),
    (0x91, .izy, 2, 6, false), (0x95, .zpx, 2, 4, false), (0x99, .absy, 3, 5, false),
    (0x9D, .absx, 3, 5, false)] ∧
  formsOf .stx = [(0x86, .zp, 2, 3, false), (0x8E, .abs, 3, 4, false), (0x96, .zpy, 2, 4, false)] ∧
  formsOf .sty = [(0x84, .zp, 2, 3, false), (0x8C, .abs, 3, 4, false), (0x94, .zpx, 2, 4, false)] ∧
  ∀ (i : Instr) (o : Operand) (s : State), i.form = .mem o → i.mnemonic ∈ [.sta, .stx, .sty] → s.bus.mem.wf = true →
    let r := resolve o .write s
    let v := if i.mnemonic = .sta then s.a else if i.mnemonic = .stx then s.x else s.y
    ∃ t, exec i s = .next t ∧ StoredAt r.ea v s t ∧ RegistersKept s t ∧ t.p = s.p ∧
      t.pc = s.pc + BitVec.ofNat 16 o.bytes.length ∧ ControlKept s t ∧ Costs i s t ∧
      t.trace = r.after.trace ++ [.write r.ea v]

/-- TAX, TAY, TSX, TXA, TYA (R130 to R134): the whole next state. -/
def Obligations.TransfersCopyAndSetZN : Prop :=
  formsOf .tax = [(0xAA, .imp, 1, 2, false)] ∧
  formsOf .tay = [(0xA8, .imp, 1, 2, false)] ∧
  formsOf .tsx = [(0xBA, .imp, 1, 2, false)] ∧
  formsOf .txa = [(0x8A, .imp, 1, 2, false)] ∧
  formsOf .tya = [(0x98, .imp, 1, 2, false)] ∧
  ∀ s : State,
    let zn (v : Byte) : Flags := { s.p with z := decide (v.toNat = 0), n := decide (128 ≤ v.toNat) }
    let cy := s.cycles + 1
    let tr := s.trace ++ [.idle]
    exec .tax s = .next { s with x := s.a, p := zn s.a, cycles := cy, trace := tr } ∧
    exec .tay s = .next { s with y := s.a, p := zn s.a, cycles := cy, trace := tr } ∧
    exec .tsx s = .next { s with x := s.sp, p := zn s.sp, cycles := cy, trace := tr } ∧
    exec .txa s = .next { s with a := s.x, p := zn s.x, cycles := cy, trace := tr } ∧
    exec .tya s = .next { s with a := s.y, p := zn s.y, cycles := cy, trace := tr }

/-- TXS (R135): S takes X and no flag changes; the whole next state. -/
def Obligations.TxsCopiesAndLeavesTheFlags : Prop :=
  formsOf .txs = [(0x9A, .imp, 1, 2, false)] ∧
  ∀ s : State, exec .txs s = .next { s with sp := s.x, cycles := s.cycles + 1, trace := s.trace ++ [.idle] }

/-! Arithmetic. -/

/-- ADC in every mode, binary and decimal (R140, R141). Binary: the 8-bit sum, carry out of bit 7, signed overflow, Z and N
of the result. Decimal: `al`, `t` and `u` are the intermediate values of R141, N and V are those of `t`, Z is that of
the binary sum. -/
def Obligations.AdcBinaryAndDecimal : Prop :=
  formsOf .adc = [(0x61, .izx, 2, 6, false), (0x65, .zp, 2, 3, false), (0x69, .imm, 2, 2, false),
    (0x6D, .abs, 3, 4, false), (0x71, .izy, 2, 5, true), (0x75, .zpx, 2, 4, false),
    (0x79, .absy, 3, 4, true), (0x7D, .absx, 3, 4, true)] ∧
  ∀ (i : Instr) (o : Operand) (s : State), i.form = .mem o → i.mnemonic = .adc →
    let a := s.a.toNat
    let m := (operandByte o s).toNat
    let c := s.p.c.toNat
    ∃ t, exec i s = .next t ∧ ReadsOperand i o s t ∧ t.x = s.x ∧ t.y = s.y ∧ t.p.d = s.p.d ∧ t.p.i = s.p.i ∧
      (s.p.d = false →
        t.a.toNat = (a + m + c) % 256 ∧ t.p.c = decide (256 ≤ a + m + c) ∧ ShowsZN t.a t.p ∧
        t.p.v = (let sum := s.a.toInt + (operandByte o s).toInt + (c : Int)
                 decide (sum < -128 ∨ 127 < sum))) ∧
      (s.p.d = true →
        let al0 := (a &&& 0x0F) + (m &&& 0x0F) + c
        let al := if 0x0A ≤ al0 then ((al0 + 0x06) &&& 0x0F) + 0x10 else al0
        let u := (a &&& 0xF0) + (m &&& 0xF0) + al
        let u' := if 0xA0 ≤ u then u + 0x60 else u
        t.a.toNat = u' % 256 ∧ t.p.c = decide (0x100 ≤ u') ∧ t.p.z = decide ((a + m + c) % 256 = 0) ∧
        t.p.n = u.testBit 7 ∧ t.p.v = decide ((a ^^^ u) &&& (m ^^^ u) &&& 0x80 ≠ 0))

/-- Decimal ADC of valid BCD operands: the accumulator is the BCD of the sum modulo 100 and C the decimal carry, "the
correct BCD sum and decimal carry for valid BCD inputs" (R141). -/
def Obligations.DecimalAdcAddsBcdNumbers : Prop :=
  ∀ (x y : Nat) (p : Flags), x < 100 → y < 100 → p.d = true →
    let bcd (n : Nat) : Byte := BitVec.ofNat 8 (16 * (n / 10) + n % 10)
    (adcResult (bcd x) (bcd y) p).1 = bcd ((x + y + p.c.toNat) % 100) ∧
      (adcResult (bcd x) (bcd y) p).2.c = decide (100 ≤ x + y + p.c.toNat)

/-- SBC in every mode, binary and decimal (R142, R143): in both modes C, V, Z and N are those of the binary subtraction; the
accumulator is the 8-bit difference, or in decimal mode the value of `SBC_decimal`, whose intermediates `al` and `u`
may be negative. -/
def Obligations.SbcBinaryAndDecimal : Prop :=
  formsOf .sbc = [(0xE1, .izx, 2, 6, false), (0xE5, .zp, 2, 3, false), (0xE9, .imm, 2, 2, false),
    (0xED, .abs, 3, 4, false), (0xF1, .izy, 2, 5, true), (0xF5, .zpx, 2, 4, false),
    (0xF9, .absy, 3, 4, true), (0xFD, .absx, 3, 4, true)] ∧
  ∀ (i : Instr) (o : Operand) (s : State), i.form = .mem o → i.mnemonic = .sbc →
    let a : Int := s.a.toNat
    let m : Int := (operandByte o s).toNat
    let c : Int := s.p.c.toNat
    let r : Byte := BitVec.ofInt 8 (a - m - (1 - c))
    ∃ t, exec i s = .next t ∧ ReadsOperand i o s t ∧ t.x = s.x ∧ t.y = s.y ∧ t.p.d = s.p.d ∧ t.p.i = s.p.i ∧
      t.p.c = decide (m + (1 - c) ≤ a) ∧ ShowsZN r t.p ∧
      t.p.v = (let diff := s.a.toInt - (operandByte o s).toInt - (1 - c)
               decide (diff < -128 ∨ 127 < diff)) ∧
      (s.p.d = false → t.a = r) ∧
      (s.p.d = true →
        let al0 := a % 16 - m % 16 + c - 1
        let al := if al0 < 0 then (al0 - 0x06) % 16 - 0x10 else al0
        let u := (a - a % 16) - (m - m % 16) + al
        t.a = BitVec.ofInt 8 (if u < 0 then u - 0x60 else u))

/-- Decimal SBC of valid BCD operands gives the BCD of the difference modulo 100, and C is 1 exactly when there is no borrow
(R142, R143). -/
def Obligations.DecimalSbcSubtractsBcdNumbers : Prop :=
  ∀ (x y : Nat) (p : Flags), x < 100 → y < 100 → p.d = true →
    let bcd (n : Nat) : Byte := BitVec.ofNat 8 (16 * (n / 10) + n % 10)
    (sbcResult (bcd x) (bcd y) p).1 = bcd ((x + 100 - y - (1 - p.c.toNat)) % 100) ∧
      (sbcResult (bcd x) (bcd y) p).2.c = decide (y + (1 - p.c.toNat) ≤ x)

/-! Logic, increments, shifts, compares. -/

/-- AND, ORA, EOR in every mode (R150, R151, R152). -/
def Obligations.LogicOperationsOnTheAccumulator : Prop :=
  formsOf .and = [(0x21, .izx, 2, 6, false), (0x25, .zp, 2, 3, false), (0x29, .imm, 2, 2, false),
    (0x2D, .abs, 3, 4, false), (0x31, .izy, 2, 5, true), (0x35, .zpx, 2, 4, false),
    (0x39, .absy, 3, 4, true), (0x3D, .absx, 3, 4, true)] ∧
  formsOf .ora = [(0x01, .izx, 2, 6, false), (0x05, .zp, 2, 3, false), (0x09, .imm, 2, 2, false),
    (0x0D, .abs, 3, 4, false), (0x11, .izy, 2, 5, true), (0x15, .zpx, 2, 4, false),
    (0x19, .absy, 3, 4, true), (0x1D, .absx, 3, 4, true)] ∧
  formsOf .eor = [(0x41, .izx, 2, 6, false), (0x45, .zp, 2, 3, false), (0x49, .imm, 2, 2, false),
    (0x4D, .abs, 3, 4, false), (0x51, .izy, 2, 5, true), (0x55, .zpx, 2, 4, false),
    (0x59, .absy, 3, 4, true), (0x5D, .absx, 3, 4, true)] ∧
  ∀ (i : Instr) (o : Operand) (s : State), i.form = .mem o → i.mnemonic ∈ [.and, .ora, .eor] →
    let m := operandByte o s
    ∃ t, exec i s = .next t ∧ ReadsOperand i o s t ∧ t.x = s.x ∧ t.y = s.y ∧ OnlyZN t.a s.p t.p ∧
      ∀ k < 8, t.a.getLsbD k =
        if i.mnemonic = .and then s.a.getLsbD k && m.getLsbD k
        else if i.mnemonic = .ora then s.a.getLsbD k || m.getLsbD k
        else s.a.getLsbD k ^^ m.getLsbD k

/-- INC and DEC in every mode (R153, R154, R61): the byte at the effective address is incremented or decremented modulo 256
by a read and two writes; Z and N from the new byte. -/
def Obligations.IncAndDecOfMemory : Prop :=
  formsOf .inc = [(0xE6, .zp, 2, 5, false), (0xEE, .abs, 3, 6, false), (0xF6, .zpx, 2, 6, false), (0xFE, .absx, 3, 7, false)] ∧
  formsOf .dec = [(0xC6, .zp, 2, 5, false), (0xCE, .abs, 3, 6, false), (0xD6, .zpx, 2, 6, false), (0xDE, .absx, 3, 7, false)] ∧
  ∀ (i : Instr) (o : Operand) (s : State), i.form = .mem o → i.mnemonic ∈ [.inc, .dec] → s.bus.mem.wf = true →
    ∃ (t : State) (old new : Byte), exec i s = .next t ∧ ModifiesOperand i o old new s t ∧ OnlyZN new s.p t.p ∧
      new.toNat = (old.toNat + if i.mnemonic = .inc then 1 else 255) % 256

/-- INX, INY, DEX, DEY (R155 to R158): the whole next state. -/
def Obligations.IncAndDecOfIndexRegisters : Prop :=
  formsOf .inx = [(0xE8, .imp, 1, 2, false)] ∧
  formsOf .iny = [(0xC8, .imp, 1, 2, false)] ∧
  formsOf .dex = [(0xCA, .imp, 1, 2, false)] ∧
  formsOf .dey = [(0x88, .imp, 1, 2, false)] ∧
  ∀ s : State,
    let up (v : Byte) : Byte := BitVec.ofNat 8 (v.toNat + 1)
    let down (v : Byte) : Byte := BitVec.ofNat 8 (v.toNat + 255)
    let zn (v : Byte) : Flags := { s.p with z := decide (v.toNat = 0), n := decide (128 ≤ v.toNat) }
    let cy := s.cycles + 1
    let tr := s.trace ++ [.idle]
    exec .inx s = .next { s with x := up s.x, p := zn (up s.x), cycles := cy, trace := tr } ∧
    exec .iny s = .next { s with y := up s.y, p := zn (up s.y), cycles := cy, trace := tr } ∧
    exec .dex s = .next { s with x := down s.x, p := zn (down s.x), cycles := cy, trace := tr } ∧
    exec .dey s = .next { s with y := down s.y, p := zn (down s.y), cycles := cy, trace := tr }

/-- ASL, LSR, ROL, ROR (R160 to R163, R61). The accumulator forms, with the whole next state: value, carry out, Z, N, and
one idle cycle. The memory forms in every mode: the same value function, by a read and two writes. -/
def Obligations.ShiftsOfTheAccumulatorAndOfMemory : Prop :=
  formsOf .asl = [(0x06, .zp, 2, 5, false), (0x0A, .acc, 1, 2, false), (0x0E, .abs, 3, 6, false),
    (0x16, .zpx, 2, 6, false), (0x1E, .absx, 3, 7, false)] ∧
  formsOf .lsr = [(0x46, .zp, 2, 5, false), (0x4A, .acc, 1, 2, false), (0x4E, .abs, 3, 6, false),
    (0x56, .zpx, 2, 6, false), (0x5E, .absx, 3, 7, false)] ∧
  formsOf .rol = [(0x26, .zp, 2, 5, false), (0x2A, .acc, 1, 2, false), (0x2E, .abs, 3, 6, false),
    (0x36, .zpx, 2, 6, false), (0x3E, .absx, 3, 7, false)] ∧
  formsOf .ror = [(0x66, .zp, 2, 5, false), (0x6A, .acc, 1, 2, false), (0x6E, .abs, 3, 6, false),
    (0x76, .zpx, 2, 6, false), (0x7E, .absx, 3, 7, false)] ∧
  (∀ (i : Instr) (s : State), i.form = .acc →
    ∃ (new : Byte) (cout : Bool), ShiftsTo i.mnemonic s.p.c s.a new cout ∧
      exec i s = .next { s with
        a := new
        p := { s.p with c := cout, z := decide (new.toNat = 0), n := decide (128 ≤ new.toNat) }
        cycles := s.cycles + 1
        trace := s.trace ++ [.idle] }) ∧
  ∀ (i : Instr) (o : Operand) (s : State), i.form = .mem o → i.mnemonic ∈ [.asl, .lsr, .rol, .ror] →
    s.bus.mem.wf = true →
    ∃ (t : State) (old new : Byte), exec i s = .next t ∧ ModifiesOperand i o old new s t ∧
      ShiftsTo i.mnemonic s.p.c old new t.p.c ∧ ShowsZN new t.p ∧ t.p.v = s.p.v ∧ t.p.d = s.p.d ∧ t.p.i = s.p.i

/-- CMP, CPX, CPY in every mode (R170, R171, R172): C iff the register is at least the operand, Z iff equal, N bit 7 of the
difference; V, D, I and every register as before. -/
def Obligations.ComparesSetCarryZeroNegative : Prop :=
  formsOf .cmp = [(0xC1, .izx, 2, 6, false), (0xC5, .zp, 2, 3, false), (0xC9, .imm, 2, 2, false),
    (0xCD, .abs, 3, 4, false), (0xD1, .izy, 2, 5, true), (0xD5, .zpx, 2, 4, false),
    (0xD9, .absy, 3, 4, true), (0xDD, .absx, 3, 4, true)] ∧
  formsOf .cpx = [(0xE0, .imm, 2, 2, false), (0xE4, .zp, 2, 3, false), (0xEC, .abs, 3, 4, false)] ∧
  formsOf .cpy = [(0xC0, .imm, 2, 2, false), (0xC4, .zp, 2, 3, false), (0xCC, .abs, 3, 4, false)] ∧
  ∀ (i : Instr) (o : Operand) (s : State), i.form = .mem o → i.mnemonic ∈ [.cmp, .cpx, .cpy] →
    let reg := (if i.mnemonic = .cmp then s.a else if i.mnemonic = .cpx then s.x else s.y).toNat
    let m := (operandByte o s).toNat
    ∃ t, exec i s = .next t ∧ ReadsOperand i o s t ∧ RegistersKept s t ∧ t.p.c = decide (m ≤ reg) ∧
      t.p.z = decide (reg = m) ∧ t.p.n = decide (128 ≤ (reg + 256 - m) % 256) ∧ t.p.v = s.p.v ∧ t.p.d = s.p.d ∧
      t.p.i = s.p.i

/-- BIT in both modes (R173): Z from `A & M`, N and V copies of bits 7 and 6 of the operand; all else as before. -/
def Obligations.BitTestsTheOperand : Prop :=
  formsOf .bit = [(0x24, .zp, 2, 3, false), (0x2C, .abs, 3, 4, false)] ∧
  ∀ (i : Instr) (o : Operand) (s : State), i.form = .mem o → i.mnemonic = .bit →
    let m := operandByte o s
    ∃ t, exec i s = .next t ∧ ReadsOperand i o s t ∧ RegistersKept s t ∧ t.p.z = decide ((s.a &&& m).toNat = 0) ∧
      t.p.n = decide (128 ≤ m.toNat) ∧ t.p.v = decide (64 ≤ m.toNat % 128) ∧ t.p.d = s.p.d ∧ t.p.i = s.p.i ∧
      t.p.c = s.p.c

/-! Control transfer. -/

/-- The eight branches (R93, R180 to R188): the operand byte is fetched either way; a taken branch goes to the signed offset
from the next instruction, modulo 65536, with one idle cycle, or two when that is another page. -/
def Obligations.BranchesGoToTheSignedOffset : Prop :=
  formsOf .bpl = [(0x10, .rel, 2, 2, false)] ∧
  formsOf .bmi = [(0x30, .rel, 2, 2, false)] ∧
  formsOf .bvc = [(0x50, .rel, 2, 2, false)] ∧
  formsOf .bvs = [(0x70, .rel, 2, 2, false)] ∧
  formsOf .bcc = [(0x90, .rel, 2, 2, false)] ∧
  formsOf .bcs = [(0xB0, .rel, 2, 2, false)] ∧
  formsOf .bne = [(0xD0, .rel, 2, 2, false)] ∧
  formsOf .beq = [(0xF0, .rel, 2, 2, false)] ∧
  ∀ (i : Instr) (offset : Int) (s : State), i.form = .rel offset → i.wellFormed = true →
    let next := (s.pc.toNat + 1) % 65536
    let taken := branchTaken i.mnemonic s.p
    ∃ t, exec i s = .next t ∧ RegistersKept s t ∧ t.p = s.p ∧ MemoryUnchanged s t ∧ ControlKept s t ∧ Costs i s t ∧
      (t.pc.toNat : Int) = (if taken then ((next : Int) + offset) % 65536 else (next : Int)) ∧
      Performed (.read s.pc (BitVec.ofInt 8 offset) ::
        if taken then (if t.pc.toNat / 256 = next / 256 then [.idle] else [.idle, .idle]) else []) s t

/-- JMP (R189, R90): absolute goes to its operand with no data access; indirect reads the low byte of the target at the
pointer and the high byte in the same page, with the page-boundary bug. -/
def Obligations.JumpsAbsoluteAndIndirect : Prop :=
  formsOf .jmp = [(0x4C, .abs, 3, 3, false), (0x6C, .ind, 3, 5, false)] ∧
  ∀ (addr : Word) (s : State),
    let fetched : List BusCycle := [.read s.pc (loByte addr), .read (s.pc + 1) (hiByte addr)]
    (∃ t, exec (.jmpAbs addr) s = .next t ∧ Performed fetched s t ∧ t.pc = addr ∧ RegistersKept s t ∧ t.p = s.p ∧
      MemoryUnchanged s t ∧ ControlKept s t) ∧
    ∃ (t : State) (q : Word) (lo hi : Byte), exec (.jmpInd addr) s = .next t ∧
      q.toNat = addr.toNat / 256 * 256 + (addr.toNat + 1) % 256 ∧
      Performed (fetched ++ [.read addr lo, .read q hi]) s t ∧
      Answered (fetched.foldl Bus.perform s.bus) [.read addr lo, .read q hi] ∧ t.pc = word lo hi ∧
      RegistersKept s t ∧ t.p = s.p ∧ MemoryUnchanged s t ∧ ControlKept s t

/-- JSR (R190): low byte of the target, idle, push of `pc0 + 2` high then low, then the third byte as the pushes have left
it; S - 2. -/
def Obligations.JsrPushesThenReadsTheHighByte : Prop :=
  formsOf .jsr = [(0x20, .abs, 3, 6, false)] ∧
  ∀ (target : Word) (s : State), s.bus.mem.wf = true →
    let first : List BusCycle := [.read s.pc (loByte target), .idle, .write (stackAddr s.sp) (hiByte (s.pc + 1)),
      .write (stackAddr (s.sp - 1)) (loByte (s.pc + 1))]
    ∃ (t : State) (hi : Byte), exec (.jsr target) s = .next t ∧ Performed (first ++ [.read (s.pc + 1) hi]) s t ∧
      hi = (first.foldl Bus.perform s.bus).value (s.pc + 1) ∧ t.pc = word (loByte target) hi ∧ t.sp = s.sp - 2 ∧
      t.a = s.a ∧ t.x = s.x ∧ t.y = s.y ∧ t.p = s.p ∧ ControlKept s t ∧
      t.peek (stackAddr s.sp) = storedByte s (stackAddr s.sp) (hiByte (s.pc + 1)) ∧
      t.peek (stackAddr (s.sp - 1)) = storedByte s (stackAddr (s.sp - 1)) (loByte (s.pc + 1)) ∧
      MemoryUnchangedBut [stackAddr s.sp, stackAddr (s.sp - 1)] s t

/-- RTS (R191): two idle cycles, two pulls, one idle cycle; PC is the pulled address plus 1; S + 2; P is not pulled. -/
def Obligations.RtsPullsAndAddsOne : Prop :=
  formsOf .rts = [(0x60, .imp, 1, 6, false)] ∧
  ∀ s : State, ∃ (t : State) (lo hi : Byte), exec .rts s = .next t ∧
    Performed [.idle, .idle, .read (stackAddr (s.sp + 1)) lo, .read (stackAddr (s.sp + 2)) hi, .idle] s t ∧
    Answered s.bus [.read (stackAddr (s.sp + 1)) lo, .read (stackAddr (s.sp + 2)) hi] ∧
    t.pc.toNat = (lo.toNat + 256 * hi.toNat + 1) % 65536 ∧ t.sp = s.sp + 2 ∧ t.a = s.a ∧ t.x = s.x ∧ t.y = s.y ∧
    t.p = s.p ∧ MemoryUnchanged s t ∧ ControlKept s t

/-! Stack, flags, NOP. -/

/-- PHA and PHP (R200, R202): one idle cycle, one push of A, or of P with bits 5 and 4 set; no flag changes. -/
def Obligations.PhaAndPhpPush : Prop :=
  formsOf .pha = [(0x48, .imp, 1, 3, false)] ∧
  formsOf .php = [(0x08, .imp, 1, 3, false)] ∧
  ∀ s : State, s.bus.mem.wf = true → ∀ i ∈ [Instr.pha, .php],
    let v := if i = .pha then s.a else s.p.pack ||| 0x30#8
    ∃ t, exec i s = .next t ∧ Performed [.idle, .write (stackAddr s.sp) v] s t ∧ StoredAt (stackAddr s.sp) v s t ∧
      t.sp = s.sp - 1 ∧ t.a = s.a ∧ t.x = s.x ∧ t.y = s.y ∧ t.pc = s.pc ∧ t.p = s.p ∧ ControlKept s t

/-- PLA and PLP (R201, R203): two idle cycles, one pull; PLA loads A and sets Z and N from it, PLP loads the six flags from
bits 7, 6, 3, 2, 1, 0. -/
def Obligations.PlaAndPlpPull : Prop :=
  formsOf .pla = [(0x68, .imp, 1, 4, false)] ∧
  formsOf .plp = [(0x28, .imp, 1, 4, false)] ∧
  ∀ s : State, ∀ i ∈ [Instr.pla, .plp], ∃ (t : State) (v : Byte), exec i s = .next t ∧
    v = s.bus.value (stackAddr (s.sp + 1)) ∧ Performed [.idle, .idle, .read (stackAddr (s.sp + 1)) v] s t ∧
    t.sp = s.sp + 1 ∧ t.x = s.x ∧ t.y = s.y ∧ t.pc = s.pc ∧ MemoryUnchanged s t ∧ ControlKept s t ∧
    (i = .pla → t.a = v ∧ OnlyZN v s.p t.p) ∧
    (i = .plp → t.a = s.a ∧
      t.p = ⟨v.getLsbD 7, v.getLsbD 6, v.getLsbD 3, v.getLsbD 2, v.getLsbD 1, v.getLsbD 0⟩)

/-- CLC, SEC, CLD, SED, CLI, SEI, CLV and NOP (R204 to R211): one idle cycle, at most one flag; the whole next state. -/
def Obligations.FlagInstructionsAndNop : Prop :=
  formsOf .clc = [(0x18, .imp, 1, 2, false)] ∧
  formsOf .sec = [(0x38, .imp, 1, 2, false)] ∧
  formsOf .cld = [(0xD8, .imp, 1, 2, false)] ∧
  formsOf .sed = [(0xF8, .imp, 1, 2, false)] ∧
  formsOf .cli = [(0x58, .imp, 1, 2, false)] ∧
  formsOf .sei = [(0x78, .imp, 1, 2, false)] ∧
  formsOf .clv = [(0xB8, .imp, 1, 2, false)] ∧
  formsOf .nop = [(0xEA, .imp, 1, 2, false)] ∧
  ∀ s : State,
    let cy := s.cycles + 1
    let tr := s.trace ++ [.idle]
    exec .clc s = .next { s with p := { s.p with c := false }, cycles := cy, trace := tr } ∧
    exec .sec s = .next { s with p := { s.p with c := true }, cycles := cy, trace := tr } ∧
    exec .cld s = .next { s with p := { s.p with d := false }, cycles := cy, trace := tr } ∧
    exec .sed s = .next { s with p := { s.p with d := true }, cycles := cy, trace := tr } ∧
    exec .cli s = .next { s with p := { s.p with i := false }, cycles := cy, trace := tr } ∧
    exec .sei s = .next { s with p := { s.p with i := true }, cycles := cy, trace := tr } ∧
    exec .clv s = .next { s with p := { s.p with v := false }, cycles := cy, trace := tr } ∧
    exec .nop s = .next { s with cycles := cy, trace := tr }

/-! BRK and RTI. -/

/-- BRK (R220, R237): one idle cycle, push of `pc0 + 2` high then low, push of P with bits 5 and 4 set and the old I, I set, PC
from `$FFFE/$FFFF`; the pending bits are neither read nor written. -/
def Obligations.BrkEntersTheHandler : Prop :=
  formsOf .brk = [(0x00, .imp, 1, 7, false)] ∧
  ∀ s : State, s.bus.mem.wf = true → ∃ (t : State) (lo hi : Byte), exec .brk s = .next t ∧
    (let first : List BusCycle := [.idle, .write (stackAddr s.sp) (hiByte (s.pc + 1)),
      .write (stackAddr (s.sp - 1)) (loByte (s.pc + 1)), .write (stackAddr (s.sp - 2)) (s.p.pack ||| 0x30#8)]
     Performed (first ++ [.read 0xFFFE#16 lo, .read 0xFFFF#16 hi]) s t ∧
       Answered (first.foldl Bus.perform s.bus) [.read 0xFFFE#16 lo, .read 0xFFFF#16 hi]) ∧
    t.pc = word lo hi ∧ t.sp = s.sp - 3 ∧ t.p = { s.p with i := true } ∧ t.a = s.a ∧ t.x = s.x ∧ t.y = s.y ∧
    ControlKept s t ∧ t.peek (stackAddr s.sp) = storedByte s (stackAddr s.sp) (hiByte (s.pc + 1)) ∧
    t.peek (stackAddr (s.sp - 1)) = storedByte s (stackAddr (s.sp - 1)) (loByte (s.pc + 1)) ∧
    t.peek (stackAddr (s.sp - 2)) = storedByte s (stackAddr (s.sp - 2)) (s.p.pack ||| 0x30#8) ∧
    MemoryUnchangedBut [stackAddr s.sp, stackAddr (s.sp - 1), stackAddr (s.sp - 2)] s t

/-- RTI (R221): two idle cycles; pulls P, its six flags from bits 7, 6, 3, 2, 1, 0, then PC low and high with no adjustment;
S + 3. -/
def Obligations.RtiRestoresFlagsAndPc : Prop :=
  formsOf .rti = [(0x40, .imp, 1, 6, false)] ∧
  ∀ s : State, ∃ (t : State) (v lo hi : Byte), exec .rti s = .next t ∧
    Performed [.idle, .idle, .read (stackAddr (s.sp + 1)) v, .read (stackAddr (s.sp + 2)) lo,
      .read (stackAddr (s.sp + 3)) hi] s t ∧
    Answered s.bus [.read (stackAddr (s.sp + 1)) v, .read (stackAddr (s.sp + 2)) lo, .read (stackAddr (s.sp + 3)) hi] ∧
    t.p = ⟨v.getLsbD 7, v.getLsbD 6, v.getLsbD 3, v.getLsbD 2, v.getLsbD 1, v.getLsbD 0⟩ ∧ t.pc = word lo hi ∧
    t.sp = s.sp + 3 ∧ t.a = s.a ∧ t.x = s.x ∧ t.y = s.y ∧ MemoryUnchanged s t ∧ ControlKept s t

/-! Round trips. -/

/-- "PHA followed by PLA restores A and sets N,Z from it; PHP followed by PLP restores all flag bits": whatever the program
does between them, if the stack pointer and the pushed byte are as the push left them and the stack is RAM
(95_test_vectors.md I6). -/
def Obligations.PushThenPullRestores : Prop :=
  ∀ s t t' : State, s.bus.mem.wf = true → StackIsRam s → t'.bus.platform = s.bus.platform → t'.sp = s.sp - 1 →
    t'.peek (stackAddr s.sp) = t.peek (stackAddr s.sp) →
    (exec .pha s = .next t → ∃ u, exec .pla t' = .next u ∧ u.a = s.a ∧ OnlyZN s.a t'.p u.p ∧ u.sp = s.sp) ∧
    (exec .php s = .next t → ∃ u, exec .plp t' = .next u ∧ u.p = s.p ∧ u.sp = s.sp)

/-- "JSR followed by RTS returns PC to the byte *after* the JSR's three-byte encoding": from any state whose stack pointer and
two stack bytes are as the JSR left them, RTS gives `pc0 + 3` and the old S (R190, R191; 95_test_vectors.md I7). -/
def Obligations.RtsReturnsPastTheJsr : Prop :=
  ∀ (target : Word) (s t t' : State), s.bus.mem.wf = true → StackIsRam s → exec (.jsr target) s = .next t →
    t'.bus.platform = s.bus.platform → t'.sp = t.sp → t'.peek (stackAddr s.sp) = t.peek (stackAddr s.sp) →
    t'.peek (stackAddr (s.sp - 1)) = t.peek (stackAddr (s.sp - 1)) →
    ∃ u, exec .rts t' = .next u ∧ u.pc = s.pc + 2 ∧ u.sp = s.sp

/-- "RTI after an interrupt restores P (modulo B) and PC exactly": after NMI or IRQ entry RTI returns to the interrupted
boundary with its flags and S, after BRK to `pc0 + 2`, from any state whose stack pointer and three bytes of frame are as the
entry left them (R221, R235, R238; 95_test_vectors.md I8). -/
def Obligations.RtiUndoesInterruptEntryAndBrk : Prop :=
  ∀ (s t t' : State), s.bus.mem.wf = true → StackIsRam s → t'.bus.platform = s.bus.platform → t'.sp = t.sp →
    (∀ sp ∈ [s.sp, s.sp - 1, s.sp - 2], t'.peek (stackAddr sp) = t.peek (stackAddr sp)) →
    ((∃ source, t = serviceInterrupt source s) →
      ∃ u, exec .rti t' = .next u ∧ u.pc = s.pc ∧ u.p = s.p ∧ u.sp = s.sp) ∧
    (exec .brk s = .next t → ∃ u, exec .rti t' = .next u ∧ u.pc = s.pc + 1 ∧ u.p = s.p ∧ u.sp = s.sp)

/-! Rules about every instruction. -/

/-- Every instruction runs to its end from every state and leaves the pending bits, the phase and the platform alone (R33,
R34, R241): "an instruction that starts executing always completes". -/
def Obligations.EveryInstructionCompletes : Prop :=
  ∀ (i : Instr) (s : State), ∃ t, exec i s = .next t ∧ ControlKept s t

/-- Every instruction takes the base cycles of its row, plus the page-cross and branch penalties, each cycle seen by the bus
and counted once (R266). -/
def Obligations.EveryInstructionTakesItsCycles : Prop :=
  ∀ (i : Instr) (s t : State), exec i s = .next t → Costs i s t

/-- Which mnemonics can change each flag (R31): every other leaves it. -/
def Obligations.FlagsHaveOnlyTheListedWriters : Prop :=
  ∀ (i : Instr) (s t : State), exec i s = .next t →
    (t.p.n ≠ s.p.n ∨ t.p.z ≠ s.p.z → i.mnemonic ∈ [.lda, .ldx, .ldy, .tax, .tay, .tsx, .txa, .tya, .adc, .sbc, .and,
      .ora, .eor, .inc, .dec, .inx, .iny, .dex, .dey, .asl, .lsr, .rol, .ror, .pla, .cmp, .cpx, .cpy, .bit, .plp, .rti]) ∧
    (t.p.v ≠ s.p.v → i.mnemonic ∈ [.adc, .sbc, .bit, .clv, .plp, .rti]) ∧
    (t.p.d ≠ s.p.d → i.mnemonic ∈ [.sed, .cld, .plp, .rti]) ∧
    (t.p.i ≠ s.p.i → i.mnemonic ∈ [.sei, .cli, .plp, .rti, .brk]) ∧
    (t.p.c ≠ s.p.c → i.mnemonic ∈ [.adc, .sbc, .asl, .lsr, .rol, .ror, .cmp, .cpx, .cpy, .clc, .sec, .plp, .rti])

/-- Which mnemonics can change A, X, Y and S, and which move PC elsewhere than past their operand bytes (R20, R21, R22, the
table of 10_state.md section 1). -/
def Obligations.RegistersHaveOnlyTheListedWriters : Prop :=
  ∀ (i : Instr) (s t : State), exec i s = .next t →
    (t.a ≠ s.a → i.mnemonic ∈ [.lda, .adc, .sbc, .and, .ora, .eor, .asl, .lsr, .rol, .ror, .txa, .tya, .pla]) ∧
    (t.x ≠ s.x → i.mnemonic ∈ [.ldx, .tax, .tsx, .inx, .dex]) ∧
    (t.y ≠ s.y → i.mnemonic ∈ [.ldy, .tay, .iny, .dey]) ∧
    (t.sp ≠ s.sp → i.mnemonic ∈ [.txs, .pha, .php, .pla, .plp, .jsr, .rts, .brk, .rti]) ∧
    (t.pc ≠ s.pc + BitVec.ofNat 16 (encode i).length - 1 →
      i.mnemonic ∈ [.bpl, .bmi, .bvc, .bvs, .bcc, .bcs, .bne, .beq, .jmp, .jsr, .rts, .brk, .rti])

/-- Which mnemonics can change memory: the stores and read-modify-writes, and the pushes, which change nothing outside the
stack page (R21, R95). -/
def Obligations.MemoryHasOnlyTheListedWriters : Prop :=
  ∀ (i : Instr) (s t : State) (a : Word), exec i s = .next t → t.peek a ≠ s.peek a →
    s.bus.kindAt a = .ram ∧
    (i.mnemonic ∈ [.sta, .stx, .sty, .inc, .dec, .asl, .lsr, .rol, .ror] ∨
      i.mnemonic ∈ [.pha, .php, .jsr, .brk] ∧ 0x100 ≤ a.toNat ∧ a.toNat ≤ 0x1FF)

/-! The bus and the cycle requests. -/

/-- A step that completes has been 2 to 7 cycles, the counter has advanced by exactly that, the bus is what those cycles made
of it, and every read was answered by the bus at its place in the sequence (R36, R54, R60, R267). -/
def Obligations.StepIsTwoToSevenAnsweredCycles : Prop :=
  ∀ s t : State, step s = .next t →
    2 ≤ t.trace.length ∧ t.trace.length ≤ 7 ∧ t.cycles = s.cycles + BitVec.ofNat 64 t.trace.length ∧
      t.bus = t.trace.foldl Bus.perform s.bus ∧ Answered s.bus t.trace

/-- `n` successive `step_cycle()` requests, where the step takes `n` cycles, leave the core at the next boundary in exactly the
state `step_instruction()` would have produced: the registers, flags, cycles, pending bits, bus and result (R245). The
record of the latest request is then that of its one cycle. -/
def Obligations.StepCyclesRefineTheStep : Prop :=
  ∀ s t : State, step s = .next t →
    ∃ (u : State) (c : BusCycle), stepCycles t.trace.length s = .next u ∧ t.trace.getLast? = some c ∧
      u = { t with trace := [c] }

/-- Inside an instruction a `step_cycle()` performs exactly the next cycle, and an input event delivered before it only writes
its pending bit: the request and the event commute, so it is seen at the next boundary (R232, R233, R245). -/
def Obligations.InputEventsInsideAnInstructionOnlySetPendingBits : Prop :=
  ∀ (s : State) (f : InFlight) (c : BusCycle) (cs : List BusCycle), s.phase = .inFlight f → f.todo = c :: cs →
    ∃ t, stepCycle s = .next t ∧ t.trace = [c] ∧ t.cycles = s.cycles + 1 ∧ t.bus = s.bus.perform c ∧
      t.pendingNmi = s.pendingNmi ∧ t.pendingIrq = s.pendingIrq ∧
      (if cs = [] then t.phase = .boundary ∧ t.regs = f.regs ∧ t.result = f.result
       else t.phase = .inFlight { f with todo := cs }) ∧
      stepCycle (nmiReq s) = .next (nmiReq t) ∧ stepCycle (irqSet s) = .next (irqSet t) ∧
      stepCycle (irqClear s) = .next (irqClear t)
end

