-- ==== Sys2Proof/Laws/Bytes.lean ====
section
/-! SUPPORT. Bytes, words and addresses as numbers. -/

namespace Sys2Proof

@[simp] theorem loByte_toNat (w : Word) : (loByte w).toNat = w.toNat % 256 := by
  simp [loByte]

@[simp] theorem hiByte_toNat (w : Word) : (hiByte w).toNat = w.toNat / 256 := by
  have := w.isLt
  simp only [hiByte, BitVec.extractLsb'_toNat, Nat.shiftRight_eq_div_pow]
  omega

@[simp] theorem word_toNat (lo hi : Byte) : (word lo hi).toNat = lo.toNat + 256 * hi.toNat := by
  have := lo.isLt
  simp only [word, BitVec.toNat_append]
  rw [← Nat.shiftLeft_add_eq_or_of_lt this]
  omega

@[simp] theorem zext16_toNat (v : Byte) : (zext16 v).toNat = v.toNat := by
  have := v.isLt
  simp only [zext16, BitVec.toNat_setWidth]
  omega

/-- A word is made of its bytes. -/
@[simp] theorem word_lo_hi (w : Word) : word (loByte w) (hiByte w) = w := by
  apply BitVec.eq_of_toNat_eq
  simp only [word_toNat, loByte_toNat, hiByte_toNat]
  omega

@[simp] theorem loByte_word (lo hi : Byte) : loByte (word lo hi) = lo := by
  apply BitVec.eq_of_toNat_eq
  have := lo.isLt
  simp only [loByte_toNat, word_toNat]
  omega

@[simp] theorem hiByte_word (lo hi : Byte) : hiByte (word lo hi) = hi := by
  apply BitVec.eq_of_toNat_eq
  have := lo.isLt
  simp only [hiByte_toNat, word_toNat]
  omega

/-- The page of an address, as a number. -/
theorem page_toNat (a : Word) : (page a).toNat = a.toNat / 256 * 256 := by
  have h : ∀ n, n < 65536 → n &&& 65280 = n / 256 * 256 := by
    intro n hn
    have : n &&& 65280 = (n >>> 8) <<< 8 := by
      apply Nat.eq_of_testBit_eq
      intro k
      simp only [Nat.testBit_and, Nat.testBit_shiftLeft, Nat.testBit_shiftRight]
      have h65280 : (65280 : Nat).testBit k = (decide (8 ≤ k) && decide (k < 16)) := by
        rw [show (65280 : Nat) = (2 ^ 8 - 1) <<< 8 from rfl, Nat.testBit_shiftLeft, Nat.testBit_two_pow_sub_one]
        by_cases h8 : 8 ≤ k <;> simp [h8]
        omega
      rw [h65280]
      by_cases h8 : 8 ≤ k
      · by_cases h16 : k < 16
        · simp [h8, h16, Nat.add_sub_cancel' h8]
        · have : n.testBit k = false := Nat.testBit_lt_two_pow (by
            calc n < 2 ^ 16 := hn
              _ ≤ 2 ^ k := Nat.pow_le_pow_right (by decide) (by omega))
          simp [h8, h16, Nat.add_sub_cancel' h8, this]
      · simp [h8]
    rw [this, Nat.shiftLeft_eq, Nat.shiftRight_eq_div_pow]
  simp only [page, BitVec.toNat_and]
  exact h a.toNat a.isLt

/-- Two addresses are in one page exactly when their high bytes are equal. -/
theorem page_eq_iff (a b : Word) : page a = page b ↔ a.toNat / 256 = b.toNat / 256 := by
  rw [← BitVec.toNat_inj, page_toNat, page_toNat]
  omega

theorem page_bne (a b : Word) : (page a != page b) = decide (b.toNat / 256 ≠ a.toNat / 256) := by
  rw [Bool.eq_iff_iff]
  simp only [bne_iff_ne, ne_eq, page_eq_iff, decide_eq_true_eq]
  omega

/-- The stack address as a number: `0x0100 | S` is in page 1 (R21). -/
@[simp] theorem Machine.stackAddr_toNat (sp : Byte) : (Machine.stackAddr sp).toNat = 256 + sp.toNat := by
  have := sp.isLt
  simp only [Machine.stackAddr, BitVec.toNat_or, zext16_toNat]
  exact Nat.shiftLeft_add_eq_or_of_lt (i := 8) (by simpa using this) 1 |>.symm

theorem Machine.stackAddr_inj {p q : Byte} : Machine.stackAddr p = Machine.stackAddr q ↔ p = q := by
  rw [← BitVec.toNat_inj, ← BitVec.toNat_inj, Machine.stackAddr_toNat, Machine.stackAddr_toNat]
  omega

/-- Bit 7 of a byte, as a number (R8). -/
theorem Machine.bit7_eq (v : Byte) : Machine.bit7 v = decide (128 ≤ v.toNat) := BitVec.msb_eq_decide v

/-- Adding a sign-extended byte is adding the signed number, modulo 65536 (R8, R93). -/
theorem add_sext16_ofInt (w : Word) {b : Int} (h1 : -128 ≤ b) (h2 : b ≤ 127) :
    ((w + sext16 (BitVec.ofInt 8 b)).toNat : Int) = ((w.toNat : Int) + b) % 65536 := by
  have h : sext16 (BitVec.ofInt 8 b) = BitVec.ofInt 16 b := by
    apply BitVec.eq_of_toInt_eq
    rw [sext16, BitVec.toInt_signExtend_of_le (by decide), BitVec.toInt_ofInt, BitVec.toInt_ofInt]
    simp only [Int.bmod, Nat.reducePow, Nat.cast_ofNat]
    omega
  rw [h, BitVec.toNat_add, BitVec.toNat_ofInt]
  simp only [Nat.reducePow, Nat.cast_ofNat]
  omega

end Sys2Proof
end

