-- ==== Sys2Proof/Laws/State.lean ====
section
/-! SUPPORT. What each named update does to each field of the state, true by rfl: later proofs never unfold a record
update. -/

namespace Sys2Proof.Machine

open Sys2Proof

@[simp] theorem State.setA_a (s : State) (v : Byte) : (s.setA v).a = v := rfl
@[simp] theorem State.setA_x (s : State) (v : Byte) : (s.setA v).x = s.x := rfl
@[simp] theorem State.setA_y (s : State) (v : Byte) : (s.setA v).y = s.y := rfl
@[simp] theorem State.setA_sp (s : State) (v : Byte) : (s.setA v).sp = s.sp := rfl
@[simp] theorem State.setA_pc (s : State) (v : Byte) : (s.setA v).pc = s.pc := rfl
@[simp] theorem State.setA_p (s : State) (v : Byte) : (s.setA v).p = s.p := rfl
@[simp] theorem State.setA_cycles (s : State) (v : Byte) : (s.setA v).cycles = s.cycles := rfl
@[simp] theorem State.setA_pendingNmi (s : State) (v : Byte) : (s.setA v).pendingNmi = s.pendingNmi := rfl
@[simp] theorem State.setA_pendingIrq (s : State) (v : Byte) : (s.setA v).pendingIrq = s.pendingIrq := rfl
@[simp] theorem State.setA_phase (s : State) (v : Byte) : (s.setA v).phase = s.phase := rfl
@[simp] theorem State.setA_bus (s : State) (v : Byte) : (s.setA v).bus = s.bus := rfl
@[simp] theorem State.setA_trace (s : State) (v : Byte) : (s.setA v).trace = s.trace := rfl
@[simp] theorem State.setA_result (s : State) (v : Byte) : (s.setA v).result = s.result := rfl

@[simp] theorem State.setX_a (s : State) (v : Byte) : (s.setX v).a = s.a := rfl
@[simp] theorem State.setX_x (s : State) (v : Byte) : (s.setX v).x = v := rfl
@[simp] theorem State.setX_y (s : State) (v : Byte) : (s.setX v).y = s.y := rfl
@[simp] theorem State.setX_sp (s : State) (v : Byte) : (s.setX v).sp = s.sp := rfl
@[simp] theorem State.setX_pc (s : State) (v : Byte) : (s.setX v).pc = s.pc := rfl
@[simp] theorem State.setX_p (s : State) (v : Byte) : (s.setX v).p = s.p := rfl
@[simp] theorem State.setX_cycles (s : State) (v : Byte) : (s.setX v).cycles = s.cycles := rfl
@[simp] theorem State.setX_pendingNmi (s : State) (v : Byte) : (s.setX v).pendingNmi = s.pendingNmi := rfl
@[simp] theorem State.setX_pendingIrq (s : State) (v : Byte) : (s.setX v).pendingIrq = s.pendingIrq := rfl
@[simp] theorem State.setX_phase (s : State) (v : Byte) : (s.setX v).phase = s.phase := rfl
@[simp] theorem State.setX_bus (s : State) (v : Byte) : (s.setX v).bus = s.bus := rfl
@[simp] theorem State.setX_trace (s : State) (v : Byte) : (s.setX v).trace = s.trace := rfl
@[simp] theorem State.setX_result (s : State) (v : Byte) : (s.setX v).result = s.result := rfl

@[simp] theorem State.setY_a (s : State) (v : Byte) : (s.setY v).a = s.a := rfl
@[simp] theorem State.setY_x (s : State) (v : Byte) : (s.setY v).x = s.x := rfl
@[simp] theorem State.setY_y (s : State) (v : Byte) : (s.setY v).y = v := rfl
@[simp] theorem State.setY_sp (s : State) (v : Byte) : (s.setY v).sp = s.sp := rfl
@[simp] theorem State.setY_pc (s : State) (v : Byte) : (s.setY v).pc = s.pc := rfl
@[simp] theorem State.setY_p (s : State) (v : Byte) : (s.setY v).p = s.p := rfl
@[simp] theorem State.setY_cycles (s : State) (v : Byte) : (s.setY v).cycles = s.cycles := rfl
@[simp] theorem State.setY_pendingNmi (s : State) (v : Byte) : (s.setY v).pendingNmi = s.pendingNmi := rfl
@[simp] theorem State.setY_pendingIrq (s : State) (v : Byte) : (s.setY v).pendingIrq = s.pendingIrq := rfl
@[simp] theorem State.setY_phase (s : State) (v : Byte) : (s.setY v).phase = s.phase := rfl
@[simp] theorem State.setY_bus (s : State) (v : Byte) : (s.setY v).bus = s.bus := rfl
@[simp] theorem State.setY_trace (s : State) (v : Byte) : (s.setY v).trace = s.trace := rfl
@[simp] theorem State.setY_result (s : State) (v : Byte) : (s.setY v).result = s.result := rfl

@[simp] theorem State.setSp_a (s : State) (v : Byte) : (s.setSp v).a = s.a := rfl
@[simp] theorem State.setSp_x (s : State) (v : Byte) : (s.setSp v).x = s.x := rfl
@[simp] theorem State.setSp_y (s : State) (v : Byte) : (s.setSp v).y = s.y := rfl
@[simp] theorem State.setSp_sp (s : State) (v : Byte) : (s.setSp v).sp = v := rfl
@[simp] theorem State.setSp_pc (s : State) (v : Byte) : (s.setSp v).pc = s.pc := rfl
@[simp] theorem State.setSp_p (s : State) (v : Byte) : (s.setSp v).p = s.p := rfl
@[simp] theorem State.setSp_cycles (s : State) (v : Byte) : (s.setSp v).cycles = s.cycles := rfl
@[simp] theorem State.setSp_pendingNmi (s : State) (v : Byte) : (s.setSp v).pendingNmi = s.pendingNmi := rfl
@[simp] theorem State.setSp_pendingIrq (s : State) (v : Byte) : (s.setSp v).pendingIrq = s.pendingIrq := rfl
@[simp] theorem State.setSp_phase (s : State) (v : Byte) : (s.setSp v).phase = s.phase := rfl
@[simp] theorem State.setSp_bus (s : State) (v : Byte) : (s.setSp v).bus = s.bus := rfl
@[simp] theorem State.setSp_trace (s : State) (v : Byte) : (s.setSp v).trace = s.trace := rfl
@[simp] theorem State.setSp_result (s : State) (v : Byte) : (s.setSp v).result = s.result := rfl

@[simp] theorem State.setPc_a (s : State) (v : Word) : (s.setPc v).a = s.a := rfl
@[simp] theorem State.setPc_x (s : State) (v : Word) : (s.setPc v).x = s.x := rfl
@[simp] theorem State.setPc_y (s : State) (v : Word) : (s.setPc v).y = s.y := rfl
@[simp] theorem State.setPc_sp (s : State) (v : Word) : (s.setPc v).sp = s.sp := rfl
@[simp] theorem State.setPc_pc (s : State) (v : Word) : (s.setPc v).pc = v := rfl
@[simp] theorem State.setPc_p (s : State) (v : Word) : (s.setPc v).p = s.p := rfl
@[simp] theorem State.setPc_cycles (s : State) (v : Word) : (s.setPc v).cycles = s.cycles := rfl
@[simp] theorem State.setPc_pendingNmi (s : State) (v : Word) : (s.setPc v).pendingNmi = s.pendingNmi := rfl
@[simp] theorem State.setPc_pendingIrq (s : State) (v : Word) : (s.setPc v).pendingIrq = s.pendingIrq := rfl
@[simp] theorem State.setPc_phase (s : State) (v : Word) : (s.setPc v).phase = s.phase := rfl
@[simp] theorem State.setPc_bus (s : State) (v : Word) : (s.setPc v).bus = s.bus := rfl
@[simp] theorem State.setPc_trace (s : State) (v : Word) : (s.setPc v).trace = s.trace := rfl
@[simp] theorem State.setPc_result (s : State) (v : Word) : (s.setPc v).result = s.result := rfl

@[simp] theorem State.setP_a (s : State) (v : Flags) : (s.setP v).a = s.a := rfl
@[simp] theorem State.setP_x (s : State) (v : Flags) : (s.setP v).x = s.x := rfl
@[simp] theorem State.setP_y (s : State) (v : Flags) : (s.setP v).y = s.y := rfl
@[simp] theorem State.setP_sp (s : State) (v : Flags) : (s.setP v).sp = s.sp := rfl
@[simp] theorem State.setP_pc (s : State) (v : Flags) : (s.setP v).pc = s.pc := rfl
@[simp] theorem State.setP_p (s : State) (v : Flags) : (s.setP v).p = v := rfl
@[simp] theorem State.setP_cycles (s : State) (v : Flags) : (s.setP v).cycles = s.cycles := rfl
@[simp] theorem State.setP_pendingNmi (s : State) (v : Flags) : (s.setP v).pendingNmi = s.pendingNmi := rfl
@[simp] theorem State.setP_pendingIrq (s : State) (v : Flags) : (s.setP v).pendingIrq = s.pendingIrq := rfl
@[simp] theorem State.setP_phase (s : State) (v : Flags) : (s.setP v).phase = s.phase := rfl
@[simp] theorem State.setP_bus (s : State) (v : Flags) : (s.setP v).bus = s.bus := rfl
@[simp] theorem State.setP_trace (s : State) (v : Flags) : (s.setP v).trace = s.trace := rfl
@[simp] theorem State.setP_result (s : State) (v : Flags) : (s.setP v).result = s.result := rfl

@[simp] theorem State.setPendingNmi_a (s : State) (v : Bool) : (s.setPendingNmi v).a = s.a := rfl
@[simp] theorem State.setPendingNmi_x (s : State) (v : Bool) : (s.setPendingNmi v).x = s.x := rfl
@[simp] theorem State.setPendingNmi_y (s : State) (v : Bool) : (s.setPendingNmi v).y = s.y := rfl
@[simp] theorem State.setPendingNmi_sp (s : State) (v : Bool) : (s.setPendingNmi v).sp = s.sp := rfl
@[simp] theorem State.setPendingNmi_pc (s : State) (v : Bool) : (s.setPendingNmi v).pc = s.pc := rfl
@[simp] theorem State.setPendingNmi_p (s : State) (v : Bool) : (s.setPendingNmi v).p = s.p := rfl
@[simp] theorem State.setPendingNmi_cycles (s : State) (v : Bool) : (s.setPendingNmi v).cycles = s.cycles := rfl
@[simp] theorem State.setPendingNmi_pendingNmi (s : State) (v : Bool) : (s.setPendingNmi v).pendingNmi = v := rfl
@[simp] theorem State.setPendingNmi_pendingIrq (s : State) (v : Bool) : (s.setPendingNmi v).pendingIrq = s.pendingIrq := rfl
@[simp] theorem State.setPendingNmi_phase (s : State) (v : Bool) : (s.setPendingNmi v).phase = s.phase := rfl
@[simp] theorem State.setPendingNmi_bus (s : State) (v : Bool) : (s.setPendingNmi v).bus = s.bus := rfl
@[simp] theorem State.setPendingNmi_trace (s : State) (v : Bool) : (s.setPendingNmi v).trace = s.trace := rfl
@[simp] theorem State.setPendingNmi_result (s : State) (v : Bool) : (s.setPendingNmi v).result = s.result := rfl

@[simp] theorem State.setPendingIrq_a (s : State) (v : Bool) : (s.setPendingIrq v).a = s.a := rfl
@[simp] theorem State.setPendingIrq_x (s : State) (v : Bool) : (s.setPendingIrq v).x = s.x := rfl
@[simp] theorem State.setPendingIrq_y (s : State) (v : Bool) : (s.setPendingIrq v).y = s.y := rfl
@[simp] theorem State.setPendingIrq_sp (s : State) (v : Bool) : (s.setPendingIrq v).sp = s.sp := rfl
@[simp] theorem State.setPendingIrq_pc (s : State) (v : Bool) : (s.setPendingIrq v).pc = s.pc := rfl
@[simp] theorem State.setPendingIrq_p (s : State) (v : Bool) : (s.setPendingIrq v).p = s.p := rfl
@[simp] theorem State.setPendingIrq_cycles (s : State) (v : Bool) : (s.setPendingIrq v).cycles = s.cycles := rfl
@[simp] theorem State.setPendingIrq_pendingNmi (s : State) (v : Bool) : (s.setPendingIrq v).pendingNmi = s.pendingNmi := rfl
@[simp] theorem State.setPendingIrq_pendingIrq (s : State) (v : Bool) : (s.setPendingIrq v).pendingIrq = v := rfl
@[simp] theorem State.setPendingIrq_phase (s : State) (v : Bool) : (s.setPendingIrq v).phase = s.phase := rfl
@[simp] theorem State.setPendingIrq_bus (s : State) (v : Bool) : (s.setPendingIrq v).bus = s.bus := rfl
@[simp] theorem State.setPendingIrq_trace (s : State) (v : Bool) : (s.setPendingIrq v).trace = s.trace := rfl
@[simp] theorem State.setPendingIrq_result (s : State) (v : Bool) : (s.setPendingIrq v).result = s.result := rfl

@[simp] theorem State.setPhase_a (s : State) (v : Phase) : (s.setPhase v).a = s.a := rfl
@[simp] theorem State.setPhase_x (s : State) (v : Phase) : (s.setPhase v).x = s.x := rfl
@[simp] theorem State.setPhase_y (s : State) (v : Phase) : (s.setPhase v).y = s.y := rfl
@[simp] theorem State.setPhase_sp (s : State) (v : Phase) : (s.setPhase v).sp = s.sp := rfl
@[simp] theorem State.setPhase_pc (s : State) (v : Phase) : (s.setPhase v).pc = s.pc := rfl
@[simp] theorem State.setPhase_p (s : State) (v : Phase) : (s.setPhase v).p = s.p := rfl
@[simp] theorem State.setPhase_cycles (s : State) (v : Phase) : (s.setPhase v).cycles = s.cycles := rfl
@[simp] theorem State.setPhase_pendingNmi (s : State) (v : Phase) : (s.setPhase v).pendingNmi = s.pendingNmi := rfl
@[simp] theorem State.setPhase_pendingIrq (s : State) (v : Phase) : (s.setPhase v).pendingIrq = s.pendingIrq := rfl
@[simp] theorem State.setPhase_phase (s : State) (v : Phase) : (s.setPhase v).phase = v := rfl
@[simp] theorem State.setPhase_bus (s : State) (v : Phase) : (s.setPhase v).bus = s.bus := rfl
@[simp] theorem State.setPhase_trace (s : State) (v : Phase) : (s.setPhase v).trace = s.trace := rfl
@[simp] theorem State.setPhase_result (s : State) (v : Phase) : (s.setPhase v).result = s.result := rfl

@[simp] theorem State.setBus_a (s : State) (v : Bus) : (s.setBus v).a = s.a := rfl
@[simp] theorem State.setBus_x (s : State) (v : Bus) : (s.setBus v).x = s.x := rfl
@[simp] theorem State.setBus_y (s : State) (v : Bus) : (s.setBus v).y = s.y := rfl
@[simp] theorem State.setBus_sp (s : State) (v : Bus) : (s.setBus v).sp = s.sp := rfl
@[simp] theorem State.setBus_pc (s : State) (v : Bus) : (s.setBus v).pc = s.pc := rfl
@[simp] theorem State.setBus_p (s : State) (v : Bus) : (s.setBus v).p = s.p := rfl
@[simp] theorem State.setBus_cycles (s : State) (v : Bus) : (s.setBus v).cycles = s.cycles := rfl
@[simp] theorem State.setBus_pendingNmi (s : State) (v : Bus) : (s.setBus v).pendingNmi = s.pendingNmi := rfl
@[simp] theorem State.setBus_pendingIrq (s : State) (v : Bus) : (s.setBus v).pendingIrq = s.pendingIrq := rfl
@[simp] theorem State.setBus_phase (s : State) (v : Bus) : (s.setBus v).phase = s.phase := rfl
@[simp] theorem State.setBus_bus (s : State) (v : Bus) : (s.setBus v).bus = v := rfl
@[simp] theorem State.setBus_trace (s : State) (v : Bus) : (s.setBus v).trace = s.trace := rfl
@[simp] theorem State.setBus_result (s : State) (v : Bus) : (s.setBus v).result = s.result := rfl

@[simp] theorem State.setTrace_a (s : State) (v : List BusCycle) : (s.setTrace v).a = s.a := rfl
@[simp] theorem State.setTrace_x (s : State) (v : List BusCycle) : (s.setTrace v).x = s.x := rfl
@[simp] theorem State.setTrace_y (s : State) (v : List BusCycle) : (s.setTrace v).y = s.y := rfl
@[simp] theorem State.setTrace_sp (s : State) (v : List BusCycle) : (s.setTrace v).sp = s.sp := rfl
@[simp] theorem State.setTrace_pc (s : State) (v : List BusCycle) : (s.setTrace v).pc = s.pc := rfl
@[simp] theorem State.setTrace_p (s : State) (v : List BusCycle) : (s.setTrace v).p = s.p := rfl
@[simp] theorem State.setTrace_cycles (s : State) (v : List BusCycle) : (s.setTrace v).cycles = s.cycles := rfl
@[simp] theorem State.setTrace_pendingNmi (s : State) (v : List BusCycle) : (s.setTrace v).pendingNmi = s.pendingNmi := rfl
@[simp] theorem State.setTrace_pendingIrq (s : State) (v : List BusCycle) : (s.setTrace v).pendingIrq = s.pendingIrq := rfl
@[simp] theorem State.setTrace_phase (s : State) (v : List BusCycle) : (s.setTrace v).phase = s.phase := rfl
@[simp] theorem State.setTrace_bus (s : State) (v : List BusCycle) : (s.setTrace v).bus = s.bus := rfl
@[simp] theorem State.setTrace_trace (s : State) (v : List BusCycle) : (s.setTrace v).trace = v := rfl
@[simp] theorem State.setTrace_result (s : State) (v : List BusCycle) : (s.setTrace v).result = s.result := rfl

@[simp] theorem State.setResult_a (s : State) (v : Option StepResult) : (s.setResult v).a = s.a := rfl
@[simp] theorem State.setResult_x (s : State) (v : Option StepResult) : (s.setResult v).x = s.x := rfl
@[simp] theorem State.setResult_y (s : State) (v : Option StepResult) : (s.setResult v).y = s.y := rfl
@[simp] theorem State.setResult_sp (s : State) (v : Option StepResult) : (s.setResult v).sp = s.sp := rfl
@[simp] theorem State.setResult_pc (s : State) (v : Option StepResult) : (s.setResult v).pc = s.pc := rfl
@[simp] theorem State.setResult_p (s : State) (v : Option StepResult) : (s.setResult v).p = s.p := rfl
@[simp] theorem State.setResult_cycles (s : State) (v : Option StepResult) : (s.setResult v).cycles = s.cycles := rfl
@[simp] theorem State.setResult_pendingNmi (s : State) (v : Option StepResult) : (s.setResult v).pendingNmi = s.pendingNmi := rfl
@[simp] theorem State.setResult_pendingIrq (s : State) (v : Option StepResult) : (s.setResult v).pendingIrq = s.pendingIrq := rfl
@[simp] theorem State.setResult_phase (s : State) (v : Option StepResult) : (s.setResult v).phase = s.phase := rfl
@[simp] theorem State.setResult_bus (s : State) (v : Option StepResult) : (s.setResult v).bus = s.bus := rfl
@[simp] theorem State.setResult_trace (s : State) (v : Option StepResult) : (s.setResult v).trace = s.trace := rfl
@[simp] theorem State.setResult_result (s : State) (v : Option StepResult) : (s.setResult v).result = v := rfl

@[simp] theorem State.setZN_a (s : State) (v : Byte) : (s.setZN v).a = s.a := rfl
@[simp] theorem State.setZN_x (s : State) (v : Byte) : (s.setZN v).x = s.x := rfl
@[simp] theorem State.setZN_y (s : State) (v : Byte) : (s.setZN v).y = s.y := rfl
@[simp] theorem State.setZN_sp (s : State) (v : Byte) : (s.setZN v).sp = s.sp := rfl
@[simp] theorem State.setZN_pc (s : State) (v : Byte) : (s.setZN v).pc = s.pc := rfl
@[simp] theorem State.setZN_p (s : State) (v : Byte) : (s.setZN v).p = s.p.setZN v := rfl
@[simp] theorem State.setZN_cycles (s : State) (v : Byte) : (s.setZN v).cycles = s.cycles := rfl
@[simp] theorem State.setZN_pendingNmi (s : State) (v : Byte) : (s.setZN v).pendingNmi = s.pendingNmi := rfl
@[simp] theorem State.setZN_pendingIrq (s : State) (v : Byte) : (s.setZN v).pendingIrq = s.pendingIrq := rfl
@[simp] theorem State.setZN_phase (s : State) (v : Byte) : (s.setZN v).phase = s.phase := rfl
@[simp] theorem State.setZN_bus (s : State) (v : Byte) : (s.setZN v).bus = s.bus := rfl
@[simp] theorem State.setZN_trace (s : State) (v : Byte) : (s.setZN v).trace = s.trace := rfl
@[simp] theorem State.setZN_result (s : State) (v : Byte) : (s.setZN v).result = s.result := rfl

@[simp] theorem State.cycle_a (s : State) (c : BusCycle) : (s.cycle c).a = s.a := rfl
@[simp] theorem State.cycle_x (s : State) (c : BusCycle) : (s.cycle c).x = s.x := rfl
@[simp] theorem State.cycle_y (s : State) (c : BusCycle) : (s.cycle c).y = s.y := rfl
@[simp] theorem State.cycle_sp (s : State) (c : BusCycle) : (s.cycle c).sp = s.sp := rfl
@[simp] theorem State.cycle_pc (s : State) (c : BusCycle) : (s.cycle c).pc = s.pc := rfl
@[simp] theorem State.cycle_p (s : State) (c : BusCycle) : (s.cycle c).p = s.p := rfl
@[simp] theorem State.cycle_cycles (s : State) (c : BusCycle) : (s.cycle c).cycles = s.cycles + 1 := rfl
@[simp] theorem State.cycle_pendingNmi (s : State) (c : BusCycle) : (s.cycle c).pendingNmi = s.pendingNmi := rfl
@[simp] theorem State.cycle_pendingIrq (s : State) (c : BusCycle) : (s.cycle c).pendingIrq = s.pendingIrq := rfl
@[simp] theorem State.cycle_phase (s : State) (c : BusCycle) : (s.cycle c).phase = s.phase := rfl
@[simp] theorem State.cycle_bus (s : State) (c : BusCycle) : (s.cycle c).bus = s.bus.perform c := rfl
@[simp] theorem State.cycle_trace (s : State) (c : BusCycle) : (s.cycle c).trace = s.trace ++ [c] := rfl
@[simp] theorem State.cycle_result (s : State) (c : BusCycle) : (s.cycle c).result = s.result := rfl

@[simp] theorem State.begin_a (s : State)  : (s.begin).a = s.a := rfl
@[simp] theorem State.begin_x (s : State)  : (s.begin).x = s.x := rfl
@[simp] theorem State.begin_y (s : State)  : (s.begin).y = s.y := rfl
@[simp] theorem State.begin_sp (s : State)  : (s.begin).sp = s.sp := rfl
@[simp] theorem State.begin_pc (s : State)  : (s.begin).pc = s.pc := rfl
@[simp] theorem State.begin_p (s : State)  : (s.begin).p = s.p := rfl
@[simp] theorem State.begin_cycles (s : State)  : (s.begin).cycles = s.cycles := rfl
@[simp] theorem State.begin_pendingNmi (s : State)  : (s.begin).pendingNmi = s.pendingNmi := rfl
@[simp] theorem State.begin_pendingIrq (s : State)  : (s.begin).pendingIrq = s.pendingIrq := rfl
@[simp] theorem State.begin_phase (s : State)  : (s.begin).phase = s.phase := rfl
@[simp] theorem State.begin_bus (s : State)  : (s.begin).bus = s.bus := rfl
@[simp] theorem State.begin_trace (s : State)  : (s.begin).trace = [] := rfl
@[simp] theorem State.begin_result (s : State)  : (s.begin).result = none := rfl

@[simp] theorem State.setRegs_a (s : State) (r : Regs) : (s.setRegs r).a = r.a := rfl
@[simp] theorem State.setRegs_x (s : State) (r : Regs) : (s.setRegs r).x = r.x := rfl
@[simp] theorem State.setRegs_y (s : State) (r : Regs) : (s.setRegs r).y = r.y := rfl
@[simp] theorem State.setRegs_sp (s : State) (r : Regs) : (s.setRegs r).sp = r.sp := rfl
@[simp] theorem State.setRegs_pc (s : State) (r : Regs) : (s.setRegs r).pc = r.pc := rfl
@[simp] theorem State.setRegs_p (s : State) (r : Regs) : (s.setRegs r).p = r.p := rfl
@[simp] theorem State.setRegs_cycles (s : State) (r : Regs) : (s.setRegs r).cycles = s.cycles := rfl
@[simp] theorem State.setRegs_pendingNmi (s : State) (r : Regs) : (s.setRegs r).pendingNmi = s.pendingNmi := rfl
@[simp] theorem State.setRegs_pendingIrq (s : State) (r : Regs) : (s.setRegs r).pendingIrq = s.pendingIrq := rfl
@[simp] theorem State.setRegs_phase (s : State) (r : Regs) : (s.setRegs r).phase = s.phase := rfl
@[simp] theorem State.setRegs_bus (s : State) (r : Regs) : (s.setRegs r).bus = s.bus := rfl
@[simp] theorem State.setRegs_trace (s : State) (r : Regs) : (s.setRegs r).trace = s.trace := rfl
@[simp] theorem State.setRegs_result (s : State) (r : Regs) : (s.setRegs r).result = s.result := rfl

@[simp] theorem State.regs_a (s : State) : s.regs.a = s.a := rfl
@[simp] theorem State.regs_x (s : State) : s.regs.x = s.x := rfl
@[simp] theorem State.regs_y (s : State) : s.regs.y = s.y := rfl
@[simp] theorem State.regs_sp (s : State) : s.regs.sp = s.sp := rfl
@[simp] theorem State.regs_pc (s : State) : s.regs.pc = s.pc := rfl
@[simp] theorem State.regs_p (s : State) : s.regs.p = s.p := rfl

/-- Two states with the same fields are the same. -/
theorem State.ext_fields {s t : State} (ha : s.a = t.a) (hx : s.x = t.x) (hy : s.y = t.y) (hsp : s.sp = t.sp)
    (hpc : s.pc = t.pc) (hp : s.p = t.p) (hcy : s.cycles = t.cycles) (hn : s.pendingNmi = t.pendingNmi)
    (hi : s.pendingIrq = t.pendingIrq) (hph : s.phase = t.phase) (hb : s.bus = t.bus) (ht : s.trace = t.trace)
    (hr : s.result = t.result) : s = t := by
  cases s; cases t; simp_all

end Sys2Proof.Machine
end

