-- ==== Sys2Proof/Laws/Memory.lean ====
section
/-! SUPPORT. Memory and the bus: read after write, the canonical form kept by every operation, and what one cycle does to
the bus. -/

namespace Sys2Proof.Machine

open Sys2Proof

namespace Memory

theorem read_of_lt_wfFrom {m : Memory} {lo a : Nat} (h : wfFrom lo m = true) (ha : a < lo) :
    read m a = unlisted := by
  induction m generalizing lo with
  | nil => rfl
  | cons c rest ih =>
    obtain ⟨k, v⟩ := c
    simp only [wfFrom, Bool.and_eq_true, decide_eq_true_eq] at h
    have hk : k ≠ a := by omega
    simp only [read, hk, if_false]
    exact ih h.2 (by omega)

theorem wfFrom_mono {m : Memory} {lo lo' : Nat} (h : wfFrom lo m = true) (hl : lo' ≤ lo) : wfFrom lo' m = true := by
  cases m with
  | nil => rfl
  | cons c rest =>
    obtain ⟨k, v⟩ := c
    simp only [wfFrom, Bool.and_eq_true, decide_eq_true_eq] at h ⊢
    exact ⟨⟨⟨by omega, h.1.1.2⟩, h.1.2⟩, h.2⟩

theorem wfFrom_consCell {m : Memory} {a : Nat} {b : Byte} (h : wfFrom (a + 1) m = true) (ha : a < 65536) :
    wfFrom a (consCell a b m) = true := by
  unfold consCell
  split
  · exact wfFrom_mono h (by omega)
  · simp_all [wfFrom]

/-- A write keeps the canonical form. -/
theorem wfFrom_write {m : Memory} {lo a : Nat} {b : Byte} (h : wfFrom lo m = true) (hl : lo ≤ a) (ha : a < 65536) :
    wfFrom lo (write m a b) = true := by
  induction m generalizing lo with
  | nil => exact wfFrom_mono (wfFrom_consCell rfl ha) hl
  | cons c rest ih =>
    obtain ⟨k, v⟩ := c
    have h' := h
    simp only [wfFrom, Bool.and_eq_true, decide_eq_true_eq] at h
    simp only [write]
    split
    · refine wfFrom_mono (wfFrom_consCell ?_ ha) hl
      simp only [wfFrom, Bool.and_eq_true, decide_eq_true_eq]
      exact ⟨⟨⟨by omega, h.1.1.2⟩, h.1.2⟩, h.2⟩
    · split
      · subst_vars
        exact wfFrom_mono (wfFrom_consCell h.2 ha) hl
      · simp only [wfFrom, Bool.and_eq_true, decide_eq_true_eq]
        exact ⟨⟨⟨h.1.1.1, h.1.1.2⟩, h.1.2⟩, ih h.2 (by omega)⟩

theorem wf_write {m : Memory} {a : Word} {b : Byte} (h : wf m = true) : wf (write m a.toNat b) = true :=
  wfFrom_write h (Nat.zero_le _) a.isLt

theorem read_consCell_same {m : Memory} {a : Nat} {b : Byte} (h : wfFrom (a + 1) m = true) :
    read (consCell a b m) a = b := by
  unfold consCell
  split
  · rename_i hb; rw [hb]; exact read_of_lt_wfFrom h (by omega)
  · simp [read]

theorem read_consCell_other {m : Memory} {a c : Nat} {b : Byte} (h : c ≠ a) : read (consCell a b m) c = read m c := by
  unfold consCell
  split
  · rfl
  · simp [read, Ne.symm h]

/-- A read after a write to the same address gives the byte written. -/
theorem read_write_same {m : Memory} {lo a : Nat} {b : Byte} (h : wfFrom lo m = true) : read (write m a b) a = b := by
  induction m generalizing lo with
  | nil => exact read_consCell_same rfl
  | cons c rest ih =>
    obtain ⟨k, v⟩ := c
    simp only [wfFrom, Bool.and_eq_true, decide_eq_true_eq] at h
    simp only [write]
    split
    · refine read_consCell_same ?_
      simp only [wfFrom, Bool.and_eq_true, decide_eq_true_eq]
      exact ⟨⟨⟨by omega, h.1.1.2⟩, h.1.2⟩, h.2⟩
    · split
      · subst_vars
        exact read_consCell_same h.2
      · rename_i h1 h2
        simp only [read, Ne.symm h2, if_false]
        exact ih h.2

/-- A write leaves every other address alone. -/
theorem read_write_other {m : Memory} {a c : Nat} {b : Byte} (h : c ≠ a) : read (write m a b) c = read m c := by
  induction m with
  | nil => exact read_consCell_other h
  | cons d rest ih =>
    obtain ⟨k, v⟩ := d
    simp only [write]
    split
    · exact read_consCell_other h
    · split
      · subst_vars
        rw [read_consCell_other h]
        simp [read, Ne.symm h]
      · simp only [read, ih]

end Memory

/-! What one cycle does to the bus. -/

@[simp] theorem Bus.perform_platform (b : Bus) (c : BusCycle) : (b.perform c).platform = b.platform := by
  unfold Bus.perform; split <;> (try split) <;> rfl

@[simp] theorem Bus.perform_kindAt (b : Bus) (c : BusCycle) (a : Word) : (b.perform c).kindAt a = b.kindAt a := by
  simp [Bus.kindAt]

@[simp] theorem Bus.perform_idle (b : Bus) : b.perform .idle = b := rfl

@[simp] theorem Bus.perform_read_mem (b : Bus) (a : Word) (v : Byte) : (b.perform (.read a v)).mem = b.mem := by
  simp only [Bus.perform]; split <;> rfl

theorem Bus.perform_read_of_ne_io {b : Bus} {a : Word} (v : Byte) (h : b.kindAt a ≠ .io) :
    b.perform (.read a v) = b := by
  simp only [Bus.perform]; split <;> simp_all

theorem Bus.perform_write_mem (b : Bus) (a : Word) (v : Byte) :
    (b.perform (.write a v)).mem = if b.kindAt a = .ram then Memory.write b.mem a.toNat v else b.mem := by
  simp only [Bus.perform]; split <;> simp_all

@[simp] theorem Bus.perform_write_draws (b : Bus) (a : Word) (v : Byte) : (b.perform (.write a v)).draws = b.draws := by
  simp only [Bus.perform]; split <;> rfl

/-- The canonical form of memory survives every cycle. -/
theorem Bus.perform_wf {b : Bus} (c : BusCycle) (h : Memory.wf b.mem = true) : Memory.wf (b.perform c).mem = true := by
  cases c with
  | read a v => simpa using h
  | write a v => rw [Bus.perform_write_mem]; split; exacts [Memory.wf_write h, h]
  | idle => exact h

theorem Bus.foldl_perform_wf {b : Bus} (cs : List BusCycle) (h : Memory.wf b.mem = true) :
    Memory.wf (cs.foldl Bus.perform b).mem = true := by
  induction cs generalizing b with
  | nil => exact h
  | cons c rest ih => exact ih (Bus.perform_wf c h)

@[simp] theorem Bus.foldl_perform_platform (b : Bus) (cs : List BusCycle) :
    (cs.foldl Bus.perform b).platform = b.platform := by
  induction cs generalizing b with
  | nil => rfl
  | cons c rest ih => simp [ih]

@[simp] theorem Bus.foldl_perform_kindAt (b : Bus) (cs : List BusCycle) (a : Word) :
    (cs.foldl Bus.perform b).kindAt a = b.kindAt a := by
  simp [Bus.kindAt]

/-- A load by the environment keeps the canonical form. -/
theorem Bus.load_wf {b : Bus} (a : Word) (v : Byte) (h : Memory.wf b.mem = true) : Memory.wf (b.load a v).mem = true :=
  Memory.wf_write h

/-- After a write cycle, the address written holds the byte if it is RAM, and else what it held. -/
theorem Bus.read_perform_write_same {b : Bus} (a : Word) (v : Byte) (h : Memory.wf b.mem = true) :
    Memory.read (b.perform (.write a v)).mem a.toNat =
      if b.kindAt a = .ram then v else Memory.read b.mem a.toNat := by
  rw [Bus.perform_write_mem]; split
  · exact Memory.read_write_same h
  · rfl

/-- After a write cycle, every other address holds what it held. -/
theorem Bus.read_perform_write_other {b : Bus} {a c : Word} (v : Byte) (h : c ≠ a) :
    Memory.read (b.perform (.write a v)).mem c.toNat = Memory.read b.mem c.toNat := by
  rw [Bus.perform_write_mem]; split
  · exact Memory.read_write_other (fun e => h (BitVec.eq_of_toNat_eq e))
  · rfl

end Sys2Proof.Machine
end

