-- ==== Sys2Proof/Laws/Ops.lean ====
section
/-! SUPPORT. What each shared operation does: field by field for what it leaves or sets, and as a list of bus cycles
(`Performed`, and `Ran` for cycles whose reads the bus answered). Provers cite these instead of unfolding the operations. -/

namespace Sys2Proof.Machine

open Sys2Proof

/-! Field lemmas. -/

@[simp] theorem memRead_value (addr : Word) (s : State) : (memRead addr s).1 = s.bus.value addr := rfl
@[simp] theorem memRead_a (addr : Word) (s : State) : ((memRead addr s).2).a = s.a := rfl
@[simp] theorem memRead_x (addr : Word) (s : State) : ((memRead addr s).2).x = s.x := rfl
@[simp] theorem memRead_y (addr : Word) (s : State) : ((memRead addr s).2).y = s.y := rfl
@[simp] theorem memRead_sp (addr : Word) (s : State) : ((memRead addr s).2).sp = s.sp := rfl
@[simp] theorem memRead_pc (addr : Word) (s : State) : ((memRead addr s).2).pc = s.pc := rfl
@[simp] theorem memRead_p (addr : Word) (s : State) : ((memRead addr s).2).p = s.p := rfl
@[simp] theorem memRead_cycles (addr : Word) (s : State) : ((memRead addr s).2).cycles = s.cycles + 1 := rfl
@[simp] theorem memRead_pendingNmi (addr : Word) (s : State) : ((memRead addr s).2).pendingNmi = s.pendingNmi := rfl
@[simp] theorem memRead_pendingIrq (addr : Word) (s : State) : ((memRead addr s).2).pendingIrq = s.pendingIrq := rfl
@[simp] theorem memRead_phase (addr : Word) (s : State) : ((memRead addr s).2).phase = s.phase := rfl
@[simp] theorem memRead_bus (addr : Word) (s : State) : ((memRead addr s).2).bus = s.bus.perform (.read addr (s.bus.value addr)) := rfl
@[simp] theorem memRead_trace (addr : Word) (s : State) : ((memRead addr s).2).trace = s.trace ++ [.read addr (s.bus.value addr)] := rfl
@[simp] theorem memRead_result (addr : Word) (s : State) : ((memRead addr s).2).result = s.result := rfl

@[simp] theorem memWrite_a (addr : Word) (v : Byte) (s : State) : (memWrite addr v s).a = s.a := rfl
@[simp] theorem memWrite_x (addr : Word) (v : Byte) (s : State) : (memWrite addr v s).x = s.x := rfl
@[simp] theorem memWrite_y (addr : Word) (v : Byte) (s : State) : (memWrite addr v s).y = s.y := rfl
@[simp] theorem memWrite_sp (addr : Word) (v : Byte) (s : State) : (memWrite addr v s).sp = s.sp := rfl
@[simp] theorem memWrite_pc (addr : Word) (v : Byte) (s : State) : (memWrite addr v s).pc = s.pc := rfl
@[simp] theorem memWrite_p (addr : Word) (v : Byte) (s : State) : (memWrite addr v s).p = s.p := rfl
@[simp] theorem memWrite_cycles (addr : Word) (v : Byte) (s : State) : (memWrite addr v s).cycles = s.cycles + 1 := rfl
@[simp] theorem memWrite_pendingNmi (addr : Word) (v : Byte) (s : State) : (memWrite addr v s).pendingNmi = s.pendingNmi := rfl
@[simp] theorem memWrite_pendingIrq (addr : Word) (v : Byte) (s : State) : (memWrite addr v s).pendingIrq = s.pendingIrq := rfl
@[simp] theorem memWrite_phase (addr : Word) (v : Byte) (s : State) : (memWrite addr v s).phase = s.phase := rfl
@[simp] theorem memWrite_bus (addr : Word) (v : Byte) (s : State) : (memWrite addr v s).bus = s.bus.perform (.write addr v) := rfl
@[simp] theorem memWrite_trace (addr : Word) (v : Byte) (s : State) : (memWrite addr v s).trace = s.trace ++ [.write addr v] := rfl
@[simp] theorem memWrite_result (addr : Word) (v : Byte) (s : State) : (memWrite addr v s).result = s.result := rfl

@[simp] theorem idle_a (s : State) : (idle s).a = s.a := rfl
@[simp] theorem idle_x (s : State) : (idle s).x = s.x := rfl
@[simp] theorem idle_y (s : State) : (idle s).y = s.y := rfl
@[simp] theorem idle_sp (s : State) : (idle s).sp = s.sp := rfl
@[simp] theorem idle_pc (s : State) : (idle s).pc = s.pc := rfl
@[simp] theorem idle_p (s : State) : (idle s).p = s.p := rfl
@[simp] theorem idle_cycles (s : State) : (idle s).cycles = s.cycles + 1 := rfl
@[simp] theorem idle_pendingNmi (s : State) : (idle s).pendingNmi = s.pendingNmi := rfl
@[simp] theorem idle_pendingIrq (s : State) : (idle s).pendingIrq = s.pendingIrq := rfl
@[simp] theorem idle_phase (s : State) : (idle s).phase = s.phase := rfl
@[simp] theorem idle_bus (s : State) : (idle s).bus = s.bus := rfl
@[simp] theorem idle_trace (s : State) : (idle s).trace = s.trace ++ [.idle] := rfl
@[simp] theorem idle_result (s : State) : (idle s).result = s.result := rfl

@[simp] theorem fetchByte_a (v : Byte) (s : State) : (fetchByte v s).a = s.a := rfl
@[simp] theorem fetchByte_x (v : Byte) (s : State) : (fetchByte v s).x = s.x := rfl
@[simp] theorem fetchByte_y (v : Byte) (s : State) : (fetchByte v s).y = s.y := rfl
@[simp] theorem fetchByte_sp (v : Byte) (s : State) : (fetchByte v s).sp = s.sp := rfl
@[simp] theorem fetchByte_pc (v : Byte) (s : State) : (fetchByte v s).pc = s.pc + 1 := rfl
@[simp] theorem fetchByte_p (v : Byte) (s : State) : (fetchByte v s).p = s.p := rfl
@[simp] theorem fetchByte_cycles (v : Byte) (s : State) : (fetchByte v s).cycles = s.cycles + 1 := rfl
@[simp] theorem fetchByte_pendingNmi (v : Byte) (s : State) : (fetchByte v s).pendingNmi = s.pendingNmi := rfl
@[simp] theorem fetchByte_pendingIrq (v : Byte) (s : State) : (fetchByte v s).pendingIrq = s.pendingIrq := rfl
@[simp] theorem fetchByte_phase (v : Byte) (s : State) : (fetchByte v s).phase = s.phase := rfl
@[simp] theorem fetchByte_bus (v : Byte) (s : State) : (fetchByte v s).bus = s.bus.perform (.read s.pc v) := rfl
@[simp] theorem fetchByte_trace (v : Byte) (s : State) : (fetchByte v s).trace = s.trace ++ [.read s.pc v] := rfl
@[simp] theorem fetchByte_result (v : Byte) (s : State) : (fetchByte v s).result = s.result := rfl

@[simp] theorem push_a (v : Byte) (s : State) : (push v s).a = s.a := rfl
@[simp] theorem push_x (v : Byte) (s : State) : (push v s).x = s.x := rfl
@[simp] theorem push_y (v : Byte) (s : State) : (push v s).y = s.y := rfl
@[simp] theorem push_sp (v : Byte) (s : State) : (push v s).sp = s.sp - 1 := rfl
@[simp] theorem push_pc (v : Byte) (s : State) : (push v s).pc = s.pc := rfl
@[simp] theorem push_p (v : Byte) (s : State) : (push v s).p = s.p := rfl
@[simp] theorem push_cycles (v : Byte) (s : State) : (push v s).cycles = s.cycles + 1 := rfl
@[simp] theorem push_pendingNmi (v : Byte) (s : State) : (push v s).pendingNmi = s.pendingNmi := rfl
@[simp] theorem push_pendingIrq (v : Byte) (s : State) : (push v s).pendingIrq = s.pendingIrq := rfl
@[simp] theorem push_phase (v : Byte) (s : State) : (push v s).phase = s.phase := rfl
@[simp] theorem push_bus (v : Byte) (s : State) : (push v s).bus = s.bus.perform (.write (stackAddr s.sp) v) := rfl
@[simp] theorem push_trace (v : Byte) (s : State) : (push v s).trace = s.trace ++ [.write (stackAddr s.sp) v] := rfl
@[simp] theorem push_result (v : Byte) (s : State) : (push v s).result = s.result := rfl

@[simp] theorem pull_value (s : State) : (pull s).1 = s.bus.value (stackAddr (s.sp + 1)) := rfl
@[simp] theorem pull_a (s : State) : ((pull s).2).a = s.a := rfl
@[simp] theorem pull_x (s : State) : ((pull s).2).x = s.x := rfl
@[simp] theorem pull_y (s : State) : ((pull s).2).y = s.y := rfl
@[simp] theorem pull_sp (s : State) : ((pull s).2).sp = s.sp + 1 := rfl
@[simp] theorem pull_pc (s : State) : ((pull s).2).pc = s.pc := rfl
@[simp] theorem pull_p (s : State) : ((pull s).2).p = s.p := rfl
@[simp] theorem pull_cycles (s : State) : ((pull s).2).cycles = s.cycles + 1 := rfl
@[simp] theorem pull_pendingNmi (s : State) : ((pull s).2).pendingNmi = s.pendingNmi := rfl
@[simp] theorem pull_pendingIrq (s : State) : ((pull s).2).pendingIrq = s.pendingIrq := rfl
@[simp] theorem pull_phase (s : State) : ((pull s).2).phase = s.phase := rfl
@[simp] theorem pull_bus (s : State) : ((pull s).2).bus = s.bus.perform (.read (stackAddr (s.sp + 1)) (s.bus.value (stackAddr (s.sp + 1)))) := rfl
@[simp] theorem pull_trace (s : State) : ((pull s).2).trace = s.trace ++ [.read (stackAddr (s.sp + 1)) (s.bus.value (stackAddr (s.sp + 1)))] := rfl
@[simp] theorem pull_result (s : State) : ((pull s).2).result = s.result := rfl

@[simp] theorem fetchWord_a (w : Word) (s : State) : (fetchWord w s).a = s.a := rfl
@[simp] theorem fetchWord_x (w : Word) (s : State) : (fetchWord w s).x = s.x := rfl
@[simp] theorem fetchWord_y (w : Word) (s : State) : (fetchWord w s).y = s.y := rfl
@[simp] theorem fetchWord_sp (w : Word) (s : State) : (fetchWord w s).sp = s.sp := rfl
@[simp] theorem fetchWord_p (w : Word) (s : State) : (fetchWord w s).p = s.p := rfl
@[simp] theorem fetchWord_pendingNmi (w : Word) (s : State) : (fetchWord w s).pendingNmi = s.pendingNmi := rfl
@[simp] theorem fetchWord_pendingIrq (w : Word) (s : State) : (fetchWord w s).pendingIrq = s.pendingIrq := rfl
@[simp] theorem fetchWord_phase (w : Word) (s : State) : (fetchWord w s).phase = s.phase := rfl
@[simp] theorem fetchWord_result (w : Word) (s : State) : (fetchWord w s).result = s.result := rfl

@[simp] theorem jumpThrough_a (vec : Word) (s : State) : (jumpThrough vec s).a = s.a := rfl
@[simp] theorem jumpThrough_x (vec : Word) (s : State) : (jumpThrough vec s).x = s.x := rfl
@[simp] theorem jumpThrough_y (vec : Word) (s : State) : (jumpThrough vec s).y = s.y := rfl
@[simp] theorem jumpThrough_sp (vec : Word) (s : State) : (jumpThrough vec s).sp = s.sp := rfl
@[simp] theorem jumpThrough_p (vec : Word) (s : State) : (jumpThrough vec s).p = s.p := rfl
@[simp] theorem jumpThrough_pendingNmi (vec : Word) (s : State) : (jumpThrough vec s).pendingNmi = s.pendingNmi := rfl
@[simp] theorem jumpThrough_pendingIrq (vec : Word) (s : State) : (jumpThrough vec s).pendingIrq = s.pendingIrq := rfl
@[simp] theorem jumpThrough_phase (vec : Word) (s : State) : (jumpThrough vec s).phase = s.phase := rfl
@[simp] theorem jumpThrough_result (vec : Word) (s : State) : (jumpThrough vec s).result = s.result := rfl

@[simp] theorem readZeroPageWord_a (ptr : Byte) (s : State) : ((readZeroPageWord ptr s).2).a = s.a := rfl
@[simp] theorem readZeroPageWord_x (ptr : Byte) (s : State) : ((readZeroPageWord ptr s).2).x = s.x := rfl
@[simp] theorem readZeroPageWord_y (ptr : Byte) (s : State) : ((readZeroPageWord ptr s).2).y = s.y := rfl
@[simp] theorem readZeroPageWord_sp (ptr : Byte) (s : State) : ((readZeroPageWord ptr s).2).sp = s.sp := rfl
@[simp] theorem readZeroPageWord_p (ptr : Byte) (s : State) : ((readZeroPageWord ptr s).2).p = s.p := rfl
@[simp] theorem readZeroPageWord_pendingNmi (ptr : Byte) (s : State) : ((readZeroPageWord ptr s).2).pendingNmi = s.pendingNmi := rfl
@[simp] theorem readZeroPageWord_pendingIrq (ptr : Byte) (s : State) : ((readZeroPageWord ptr s).2).pendingIrq = s.pendingIrq := rfl
@[simp] theorem readZeroPageWord_phase (ptr : Byte) (s : State) : ((readZeroPageWord ptr s).2).phase = s.phase := rfl
@[simp] theorem readZeroPageWord_result (ptr : Byte) (s : State) : ((readZeroPageWord ptr s).2).result = s.result := rfl
@[simp] theorem readZeroPageWord_pc (ptr : Byte) (s : State) : ((readZeroPageWord ptr s).2).pc = s.pc := rfl

@[simp] theorem fetchWord_pc (w : Word) (s : State) : (fetchWord w s).pc = s.pc + 2 := by
  simp [fetchWord, BitVec.add_assoc]

@[simp] theorem resolveIndexed_a (base : Word) (index : Byte) (cls : AccessClass) (s : State) :
    (resolveIndexed base index cls s).after.a = s.a := by
  simp only [resolveIndexed]; split <;> rfl
@[simp] theorem resolveIndexed_x (base : Word) (index : Byte) (cls : AccessClass) (s : State) :
    (resolveIndexed base index cls s).after.x = s.x := by
  simp only [resolveIndexed]; split <;> rfl
@[simp] theorem resolveIndexed_y (base : Word) (index : Byte) (cls : AccessClass) (s : State) :
    (resolveIndexed base index cls s).after.y = s.y := by
  simp only [resolveIndexed]; split <;> rfl
@[simp] theorem resolveIndexed_sp (base : Word) (index : Byte) (cls : AccessClass) (s : State) :
    (resolveIndexed base index cls s).after.sp = s.sp := by
  simp only [resolveIndexed]; split <;> rfl
@[simp] theorem resolveIndexed_p (base : Word) (index : Byte) (cls : AccessClass) (s : State) :
    (resolveIndexed base index cls s).after.p = s.p := by
  simp only [resolveIndexed]; split <;> rfl
@[simp] theorem resolveIndexed_pendingNmi (base : Word) (index : Byte) (cls : AccessClass) (s : State) :
    (resolveIndexed base index cls s).after.pendingNmi = s.pendingNmi := by
  simp only [resolveIndexed]; split <;> rfl
@[simp] theorem resolveIndexed_pendingIrq (base : Word) (index : Byte) (cls : AccessClass) (s : State) :
    (resolveIndexed base index cls s).after.pendingIrq = s.pendingIrq := by
  simp only [resolveIndexed]; split <;> rfl
@[simp] theorem resolveIndexed_phase (base : Word) (index : Byte) (cls : AccessClass) (s : State) :
    (resolveIndexed base index cls s).after.phase = s.phase := by
  simp only [resolveIndexed]; split <;> rfl
@[simp] theorem resolveIndexed_result (base : Word) (index : Byte) (cls : AccessClass) (s : State) :
    (resolveIndexed base index cls s).after.result = s.result := by
  simp only [resolveIndexed]; split <;> rfl
@[simp] theorem resolveIndexed_pc (base : Word) (index : Byte) (cls : AccessClass) (s : State) :
    (resolveIndexed base index cls s).after.pc = s.pc := by
  simp only [resolveIndexed]; split <;> rfl
@[simp] theorem resolveIndexed_bus (base : Word) (index : Byte) (cls : AccessClass) (s : State) :
    (resolveIndexed base index cls s).after.bus = s.bus := by
  simp only [resolveIndexed]; split <;> rfl

@[simp] theorem resolve_a (o : Operand) (cls : AccessClass) (s : State) : (resolve o cls s).after.a = s.a := by
  cases o <;> simp [resolve]
@[simp] theorem resolve_x (o : Operand) (cls : AccessClass) (s : State) : (resolve o cls s).after.x = s.x := by
  cases o <;> simp [resolve]
@[simp] theorem resolve_y (o : Operand) (cls : AccessClass) (s : State) : (resolve o cls s).after.y = s.y := by
  cases o <;> simp [resolve]
@[simp] theorem resolve_sp (o : Operand) (cls : AccessClass) (s : State) : (resolve o cls s).after.sp = s.sp := by
  cases o <;> simp [resolve]
@[simp] theorem resolve_p (o : Operand) (cls : AccessClass) (s : State) : (resolve o cls s).after.p = s.p := by
  cases o <;> simp [resolve]
@[simp] theorem resolve_pendingNmi (o : Operand) (cls : AccessClass) (s : State) : (resolve o cls s).after.pendingNmi = s.pendingNmi := by
  cases o <;> simp [resolve]
@[simp] theorem resolve_pendingIrq (o : Operand) (cls : AccessClass) (s : State) : (resolve o cls s).after.pendingIrq = s.pendingIrq := by
  cases o <;> simp [resolve]
@[simp] theorem resolve_phase (o : Operand) (cls : AccessClass) (s : State) : (resolve o cls s).after.phase = s.phase := by
  cases o <;> simp [resolve]
@[simp] theorem resolve_result (o : Operand) (cls : AccessClass) (s : State) : (resolve o cls s).after.result = s.result := by
  cases o <;> simp [resolve]
/-- The resolver leaves PC past the operand bytes (R80). -/
@[simp] theorem resolve_pc (o : Operand) (cls : AccessClass) (s : State) :
    (resolve o cls s).after.pc = s.pc + BitVec.ofNat 16 o.bytes.length := by
  cases o <;> simp [resolve, Operand.bytes]

@[simp] theorem readOperand_a (o : Operand) (s : State) : (readOperand o s).2.a = s.a := by
  cases o <;> simp [readOperand, resolve]
@[simp] theorem readOperand_x (o : Operand) (s : State) : (readOperand o s).2.x = s.x := by
  cases o <;> simp [readOperand, resolve]
@[simp] theorem readOperand_y (o : Operand) (s : State) : (readOperand o s).2.y = s.y := by
  cases o <;> simp [readOperand, resolve]
@[simp] theorem readOperand_sp (o : Operand) (s : State) : (readOperand o s).2.sp = s.sp := by
  cases o <;> simp [readOperand, resolve]
@[simp] theorem readOperand_p (o : Operand) (s : State) : (readOperand o s).2.p = s.p := by
  cases o <;> simp [readOperand, resolve]
@[simp] theorem readOperand_pendingNmi (o : Operand) (s : State) : (readOperand o s).2.pendingNmi = s.pendingNmi := by
  cases o <;> simp [readOperand, resolve]
@[simp] theorem readOperand_pendingIrq (o : Operand) (s : State) : (readOperand o s).2.pendingIrq = s.pendingIrq := by
  cases o <;> simp [readOperand, resolve]
@[simp] theorem readOperand_phase (o : Operand) (s : State) : (readOperand o s).2.phase = s.phase := by
  cases o <;> simp [readOperand, resolve]
@[simp] theorem readOperand_result (o : Operand) (s : State) : (readOperand o s).2.result = s.result := by
  cases o <;> simp [readOperand, resolve]
@[simp] theorem readOperand_pc (o : Operand) (s : State) :
    (readOperand o s).2.pc = s.pc + BitVec.ofNat 16 o.bytes.length := by
  cases o <;> simp [readOperand, resolve, Operand.bytes]

/-! Cycles performed. -/

theorem Performed.refl (s : State) : Performed [] s s := ⟨by simp, by simp, rfl⟩

theorem Performed.trans {cs ds : List BusCycle} {s t u : State} (h : Performed cs s t) (k : Performed ds t u) :
    Performed (cs ++ ds) s u := by
  refine ⟨by rw [k.1, h.1, List.append_assoc], ?_, by rw [k.2.2, h.2.2, List.foldl_append]⟩
  rw [k.2.1, h.2.1, List.length_append, BitVec.ofNat_add, BitVec.add_assoc]

theorem Performed.cycle (c : BusCycle) (s : State) : Performed [c] s (s.cycle c) := ⟨rfl, rfl, rfl⟩

/-- What counts of the two ends is the record, the counter and the bus. -/
theorem Performed.congr {cs : List BusCycle} {s s' t t' : State} (h : Performed cs s t) (hs : s'.trace = s.trace)
    (hs' : s'.cycles = s.cycles) (hb : s'.bus = s.bus) (ht : t'.trace = t.trace) (ht' : t'.cycles = t.cycles)
    (hb' : t'.bus = t.bus) : Performed cs s' t' := by
  obtain ⟨h1, h2, h3⟩ := h
  exact ⟨by rw [ht, h1, hs], by rw [ht', h2, hs'], by rw [hb', h3, hb]⟩

@[simp] theorem performed_setA (cs : List BusCycle) (s t : State) (v : Byte) :
    Performed cs s (t.setA v) ↔ Performed cs s t := Iff.rfl
@[simp] theorem performed_from_setA (cs : List BusCycle) (s t : State) (v : Byte) :
    Performed cs (s.setA v) t ↔ Performed cs s t := Iff.rfl
@[simp] theorem performed_setX (cs : List BusCycle) (s t : State) (v : Byte) :
    Performed cs s (t.setX v) ↔ Performed cs s t := Iff.rfl
@[simp] theorem performed_from_setX (cs : List BusCycle) (s t : State) (v : Byte) :
    Performed cs (s.setX v) t ↔ Performed cs s t := Iff.rfl
@[simp] theorem performed_setY (cs : List BusCycle) (s t : State) (v : Byte) :
    Performed cs s (t.setY v) ↔ Performed cs s t := Iff.rfl
@[simp] theorem performed_from_setY (cs : List BusCycle) (s t : State) (v : Byte) :
    Performed cs (s.setY v) t ↔ Performed cs s t := Iff.rfl
@[simp] theorem performed_setSp (cs : List BusCycle) (s t : State) (v : Byte) :
    Performed cs s (t.setSp v) ↔ Performed cs s t := Iff.rfl
@[simp] theorem performed_from_setSp (cs : List BusCycle) (s t : State) (v : Byte) :
    Performed cs (s.setSp v) t ↔ Performed cs s t := Iff.rfl
@[simp] theorem performed_setPc (cs : List BusCycle) (s t : State) (v : Word) :
    Performed cs s (t.setPc v) ↔ Performed cs s t := Iff.rfl
@[simp] theorem performed_from_setPc (cs : List BusCycle) (s t : State) (v : Word) :
    Performed cs (s.setPc v) t ↔ Performed cs s t := Iff.rfl
@[simp] theorem performed_setP (cs : List BusCycle) (s t : State) (v : Flags) :
    Performed cs s (t.setP v) ↔ Performed cs s t := Iff.rfl
@[simp] theorem performed_from_setP (cs : List BusCycle) (s t : State) (v : Flags) :
    Performed cs (s.setP v) t ↔ Performed cs s t := Iff.rfl
@[simp] theorem performed_setPendingNmi (cs : List BusCycle) (s t : State) (v : Bool) :
    Performed cs s (t.setPendingNmi v) ↔ Performed cs s t := Iff.rfl
@[simp] theorem performed_from_setPendingNmi (cs : List BusCycle) (s t : State) (v : Bool) :
    Performed cs (s.setPendingNmi v) t ↔ Performed cs s t := Iff.rfl
@[simp] theorem performed_setPendingIrq (cs : List BusCycle) (s t : State) (v : Bool) :
    Performed cs s (t.setPendingIrq v) ↔ Performed cs s t := Iff.rfl
@[simp] theorem performed_from_setPendingIrq (cs : List BusCycle) (s t : State) (v : Bool) :
    Performed cs (s.setPendingIrq v) t ↔ Performed cs s t := Iff.rfl
@[simp] theorem performed_setPhase (cs : List BusCycle) (s t : State) (v : Phase) :
    Performed cs s (t.setPhase v) ↔ Performed cs s t := Iff.rfl
@[simp] theorem performed_from_setPhase (cs : List BusCycle) (s t : State) (v : Phase) :
    Performed cs (s.setPhase v) t ↔ Performed cs s t := Iff.rfl
@[simp] theorem performed_setResult (cs : List BusCycle) (s t : State) (v : Option StepResult) :
    Performed cs s (t.setResult v) ↔ Performed cs s t := Iff.rfl
@[simp] theorem performed_from_setResult (cs : List BusCycle) (s t : State) (v : Option StepResult) :
    Performed cs (s.setResult v) t ↔ Performed cs s t := Iff.rfl
@[simp] theorem performed_setZN (cs : List BusCycle) (s t : State) (v : Byte) :
    Performed cs s (t.setZN v) ↔ Performed cs s t := Iff.rfl
@[simp] theorem performed_from_setZN (cs : List BusCycle) (s t : State) (v : Byte) :
    Performed cs (s.setZN v) t ↔ Performed cs s t := Iff.rfl

theorem performed_memRead (addr : Word) (s : State) :
    Performed [.read addr (s.bus.value addr)] s (memRead addr s).2 := Performed.cycle _ _

theorem performed_memWrite (addr : Word) (v : Byte) (s : State) : Performed [.write addr v] s (memWrite addr v s) :=
  Performed.cycle _ _

theorem performed_idle (s : State) : Performed [.idle] s (idle s) := Performed.cycle _ _

theorem performed_fetchByte (v : Byte) (s : State) : Performed [.read s.pc v] s (fetchByte v s) := Performed.cycle _ _

theorem performed_fetchWord (w : Word) (s : State) :
    Performed [.read s.pc (loByte w), .read (s.pc + 1) (hiByte w)] s (fetchWord w s) :=
  (performed_fetchByte (loByte w) s).trans (performed_fetchByte (hiByte w) _)

theorem performed_push (v : Byte) (s : State) : Performed [.write (stackAddr s.sp) v] s (push v s) :=
  Performed.cycle _ _

theorem performed_pull (s : State) :
    Performed [.read (stackAddr (s.sp + 1)) (s.bus.value (stackAddr (s.sp + 1)))] s (pull s).2 :=
  Performed.cycle _ _

end Sys2Proof.Machine
end

