-- ==== Sys2Proof/Laws/Operands.lean ====
section
/-! SUPPORT. The cycles of the resolver and of the three ways an instruction uses its memory operand, and what they do to
memory. `Ran` is `Performed` for cycles whose reads the bus answered. -/

namespace Sys2Proof.Machine

open Sys2Proof

/-! Reads answered by the bus. -/

theorem answered_append {b : Bus} {cs ds : List BusCycle} :
    Answered b (cs ++ ds) ↔ Answered b cs ∧ Answered (cs.foldl Bus.perform b) ds := by
  induction cs generalizing b with
  | nil => simp [Answered]
  | cons c rest ih => cases c <;> simp [Answered, ih, and_assoc]

/-- The cycles are performed, and every read among them is answered by the bus. -/
def Ran (cs : List BusCycle) (s t : State) : Prop := Performed cs s t ∧ Answered s.bus cs

theorem Ran.refl (s : State) : Ran [] s s := ⟨Performed.refl s, trivial⟩

theorem Ran.trans {cs ds : List BusCycle} {s t u : State} (h : Ran cs s t) (k : Ran ds t u) : Ran (cs ++ ds) s u :=
  ⟨h.1.trans k.1, answered_append.2 ⟨h.2, h.1.2.2 ▸ k.2⟩⟩

theorem ran_memRead (addr : Word) (s : State) : Ran [.read addr (s.bus.value addr)] s (memRead addr s).2 :=
  ⟨performed_memRead addr s, rfl, trivial⟩

theorem ran_memWrite (addr : Word) (v : Byte) (s : State) : Ran [.write addr v] s (memWrite addr v s) :=
  ⟨performed_memWrite addr v s, trivial⟩

theorem ran_idle (s : State) : Ran [.idle] s (idle s) := ⟨performed_idle s, trivial⟩

theorem ran_push (v : Byte) (s : State) : Ran [.write (stackAddr s.sp) v] s (push v s) :=
  ⟨performed_push v s, trivial⟩

theorem ran_pull (s : State) :
    Ran [.read (stackAddr (s.sp + 1)) (s.bus.value (stackAddr (s.sp + 1)))] s (pull s).2 :=
  ⟨performed_pull s, rfl, trivial⟩

/-! Fetches: answered when the bytes they carry are the ones at PC. -/

/-- The bytes are those that fetches from PC on would return. -/
def FetchesAre (bytes : List Byte) (s : State) : Prop :=
  match bytes with
  | [] => True
  | v :: rest => v = s.bus.value s.pc ∧ FetchesAre rest (fetchByte v s)

theorem ran_fetchByte {v : Byte} {s : State} (h : v = s.bus.value s.pc) : Ran [.read s.pc v] s (fetchByte v s) :=
  ⟨performed_fetchByte v s, h, trivial⟩

theorem ran_fetchWord {w : Word} {s : State} (h : FetchesAre [loByte w, hiByte w] s) :
    Ran [.read s.pc (loByte w), .read (s.pc + 1) (hiByte w)] s (fetchWord w s) :=
  (ran_fetchByte h.1).trans (ran_fetchByte (v := hiByte w) h.2.1)

/-! Zero-page pointers. -/

theorem readZeroPageWord_value (ptr : Byte) (s : State) :
    (readZeroPageWord ptr s).1 = word (s.bus.value (zext16 ptr))
      ((s.bus.perform (.read (zext16 ptr) (s.bus.value (zext16 ptr)))).value (zext16 (ptr + 1))) := rfl

theorem ran_readZeroPageWord (ptr : Byte) (s : State) :
    Ran [.read (zext16 ptr) (loByte (readZeroPageWord ptr s).1),
      .read (zext16 (ptr + 1)) (hiByte (readZeroPageWord ptr s).1)] s (readZeroPageWord ptr s).2 := by
  simpa [readZeroPageWord] using (ran_memRead (zext16 ptr) s).trans (ran_memRead (zext16 (ptr + 1)) _)

/-! The resolver. -/

/-- The idle cycle of an indexed mode: always for a write or a read-modify-write, for a read when a page is crossed. -/
def indexCycles (cls : AccessClass) (crossed : Bool) : List BusCycle := if cls != .read || crossed then [.idle] else []

theorem ran_resolveIndexed (base : Word) (index : Byte) (cls : AccessClass) (s : State) :
    Ran (indexCycles cls (resolveIndexed base index cls s).crossed) s (resolveIndexed base index cls s).after := by
  unfold indexCycles
  split <;> rename_i h
  · simpa only [resolveIndexed, if_pos (show (cls != .read || page base != page (base + zext16 index)) = true from h)]
      using ran_idle s
  · simpa only [resolveIndexed, if_neg (show ¬(cls != .read || page base != page (base + zext16 index)) = true from h)]
      using Ran.refl s

/-- The cycles of `resolve`, in order (R83 to R92). -/
def resolveCycles (o : Operand) (cls : AccessClass) (s : State) : List BusCycle :=
  let x := indexCycles cls (resolve o cls s).crossed
  match o with
  | .imm _ => []
  | .zp op => [.read s.pc op]
  | .zpx op | .zpy op => [.read s.pc op, .idle]
  | .abs addr => [.read s.pc (loByte addr), .read (s.pc + 1) (hiByte addr)]
  | .absx addr | .absy addr => [.read s.pc (loByte addr), .read (s.pc + 1) (hiByte addr)] ++ x
  | .izx op =>
    let w := (readZeroPageWord (op + s.x) (idle (fetchByte op s))).1
    [.read s.pc op, .idle, .read (zext16 (op + s.x)) (loByte w), .read (zext16 (op + s.x + 1)) (hiByte w)]
  | .izy op =>
    let w := (readZeroPageWord op (fetchByte op s)).1
    [.read s.pc op, .read (zext16 op) (loByte w), .read (zext16 (op + 1)) (hiByte w)] ++ x

theorem performed_resolve (o : Operand) (cls : AccessClass) (s : State) :
    Performed (resolveCycles o cls s) s (resolve o cls s).after := by
  cases o with
  | imm op => exact Performed.refl s
  | zp op => exact performed_fetchByte op s
  | zpx op => exact (performed_fetchByte op s).trans (performed_idle _)
  | zpy op => exact (performed_fetchByte op s).trans (performed_idle _)
  | abs addr => exact performed_fetchWord addr s
  | absx addr => exact (performed_fetchWord addr s).trans (ran_resolveIndexed addr s.x cls _).1
  | absy addr => exact (performed_fetchWord addr s).trans (ran_resolveIndexed addr s.y cls _).1
  | izx op =>
    exact ((performed_fetchByte op s).trans (performed_idle _)).trans (ran_readZeroPageWord (op + s.x) _).1
  | izy op =>
    exact ((performed_fetchByte op s).trans (ran_readZeroPageWord op _).1).trans (ran_resolveIndexed _ s.y cls _).1

/-- The resolver's reads are answered when its operand bytes are the ones at PC; an immediate byte it does not fetch. -/
theorem ran_resolve {o : Operand} {cls : AccessClass} {s : State} (h : (∃ op, o = .imm op) ∨ FetchesAre o.bytes s) :
    Ran (resolveCycles o cls s) s (resolve o cls s).after := by
  cases o with
  | imm op => exact Ran.refl s
  | zp op => exact ran_fetchByte (by simpa [Operand.bytes, FetchesAre] using h)
  | zpx op => exact (ran_fetchByte (by simpa [Operand.bytes, FetchesAre] using h)).trans (ran_idle _)
  | zpy op => exact (ran_fetchByte (by simpa [Operand.bytes, FetchesAre] using h)).trans (ran_idle _)
  | abs addr => exact ran_fetchWord (by simpa [Operand.bytes] using h)
  | absx addr =>
    exact (ran_fetchWord (by simpa [Operand.bytes] using h)).trans (ran_resolveIndexed addr s.x cls _)
  | absy addr =>
    exact (ran_fetchWord (by simpa [Operand.bytes] using h)).trans (ran_resolveIndexed addr s.y cls _)
  | izx op =>
    exact ((ran_fetchByte (v := op) (by simpa [Operand.bytes, FetchesAre] using h)).trans (ran_idle _)).trans
      (ran_readZeroPageWord (op + s.x) _)
  | izy op =>
    exact ((ran_fetchByte (v := op) (by simpa [Operand.bytes, FetchesAre] using h)).trans (ran_readZeroPageWord op _)).trans
      (ran_resolveIndexed _ s.y cls _)

/-- No cycle of the resolver is a write (R80). -/
theorem resolveCycles_no_write (o : Operand) (cls : AccessClass) (s : State) (a : Word) (v : Byte) :
    BusCycle.write a v ∉ resolveCycles o cls s := by
  have h (b : Bool) : BusCycle.write a v ∉ indexCycles cls b := by unfold indexCycles; split <;> simp
  cases o <;> simp [resolveCycles, h]

/-- The effective address and the page test do not depend on the access class. -/
theorem resolve_ea_cls (o : Operand) (cls cls' : AccessClass) (s : State) :
    (resolve o cls s).ea = (resolve o cls' s).ea ∧ (resolve o cls s).crossed = (resolve o cls' s).crossed := by
  cases o <;> exact ⟨rfl, rfl⟩

/-! Cycles that write nothing leave memory as it is. -/

theorem foldl_perform_mem_of_no_write {cs : List BusCycle} (b : Bus) (h : ∀ a v, BusCycle.write a v ∉ cs) :
    (cs.foldl Bus.perform b).mem = b.mem := by
  induction cs generalizing b with
  | nil => rfl
  | cons c rest ih =>
    have hr : ∀ a v, BusCycle.write a v ∉ rest := fun a v m => h a v (List.mem_cons_of_mem _ m)
    rw [List.foldl_cons, ih _ hr]
    cases c with
    | read a v => simp
    | write a v => exact absurd (List.mem_cons_self ..) (h a v)
    | idle => rfl

theorem Performed.memoryUnchanged {cs : List BusCycle} {s t : State} (h : Performed cs s t)
    (hw : ∀ a v, BusCycle.write a v ∉ cs) : MemoryUnchanged s t := fun a => by
  simp [State.peek, h.2.2, foldl_perform_mem_of_no_write _ hw]

theorem Performed.platform {cs : List BusCycle} {s t : State} (h : Performed cs s t) :
    t.bus.platform = s.bus.platform := by simp [h.2.2]

theorem Performed.kindAt {cs : List BusCycle} {s t : State} (h : Performed cs s t) (a : Word) :
    t.bus.kindAt a = s.bus.kindAt a := by simp [h.2.2]

theorem Performed.wf {cs : List BusCycle} {s t : State} (h : Performed cs s t) (hm : s.bus.mem.wf = true) :
    t.bus.mem.wf = true := by rw [h.2.2]; exact Bus.foldl_perform_wf cs hm

@[simp] theorem resolve_peek (o : Operand) (cls : AccessClass) (s : State) (a : Word) :
    (resolve o cls s).after.peek a = s.peek a :=
  (performed_resolve o cls s).memoryUnchanged (fun _ _ => resolveCycles_no_write o cls s _ _) a

@[simp] theorem resolve_platform (o : Operand) (cls : AccessClass) (s : State) :
    (resolve o cls s).after.bus.platform = s.bus.platform := (performed_resolve o cls s).platform

@[simp] theorem resolve_kindAt (o : Operand) (cls : AccessClass) (s : State) (a : Word) :
    (resolve o cls s).after.bus.kindAt a = s.bus.kindAt a := (performed_resolve o cls s).kindAt a

theorem resolve_wf (o : Operand) (cls : AccessClass) {s : State} (h : s.bus.mem.wf = true) :
    (resolve o cls s).after.bus.mem.wf = true := (performed_resolve o cls s).wf h

/-! One write. -/

/-- What a write cycle leaves in memory. -/
theorem memWrite_storedAt (addr : Word) (v : Byte) {s : State} (h : s.bus.mem.wf = true) :
    StoredAt addr v s (memWrite addr v s) := by
  refine ⟨?_, fun a ha => ?_⟩
  · simpa [State.peek, storedByte] using Bus.read_perform_write_same addr v h
  · simpa [State.peek] using Bus.read_perform_write_other v (by simpa using ha)

/-! The three uses of an operand. -/

/-- A read-class operand adds one read at the effective address to the resolver's cycles (R95). -/
theorem performed_readOperand (o : Operand) (s : State) :
    Performed (resolveCycles o .read s ++ [.read (resolve o .read s).ea (operandByte o s)]) s (readOperand o s).2 := by
  refine (performed_resolve o .read s).trans ?_
  cases o <;> exact Performed.cycle _ _

theorem readOperand_trace (o : Operand) (s : State) :
    (readOperand o s).2.trace =
      (resolve o .read s).after.trace ++ [.read (resolve o .read s).ea (operandByte o s)] := by
  cases o <;> rfl

theorem readOperandCycles_no_write (o : Operand) (s : State) (a : Word) (v : Byte) :
    BusCycle.write a v ∉ resolveCycles o .read s ++ [.read (resolve o .read s).ea (operandByte o s)] := by
  simp [resolveCycles_no_write]

theorem ran_readOperand {o : Operand} {s : State} (h : FetchesAre o.bytes s) :
    Ran (resolveCycles o .read s ++ [.read (resolve o .read s).ea (operandByte o s)]) s (readOperand o s).2 := by
  refine (ran_resolve (.inr h)).trans ?_
  cases o
  case imm op => exact ⟨Performed.cycle _ _, h.1, trivial⟩
  all_goals exact ran_memRead _ _

/-- A write-class operand adds one write (R95). -/
theorem performed_writeOperand (o : Operand) (v : Byte) (s : State) :
    Performed (resolveCycles o .write s ++ [.write (resolve o .write s).ea v]) s (writeOperand o v s) :=
  (performed_resolve o .write s).trans (performed_memWrite _ _ _)

theorem ran_writeOperand {o : Operand} (v : Byte) {s : State} (h : (∃ op, o = .imm op) ∨ FetchesAre o.bytes s) :
    Ran (resolveCycles o .write s ++ [.write (resolve o .write s).ea v]) s (writeOperand o v s) :=
  (ran_resolve h).trans (ran_memWrite _ _ _)

theorem writeOperand_storedAt (o : Operand) (v : Byte) {s : State} (h : s.bus.mem.wf = true) :
    StoredAt (resolve o .write s).ea v s (writeOperand o v s) := by
  have k := memWrite_storedAt (resolve o .write s).ea v (resolve_wf o .write h)
  refine ⟨?_, fun a ha => ?_⟩
  · simpa [storedByte, writeOperand] using k.1
  · simpa [writeOperand] using k.2 a ha

/-- The byte a read-modify-write instruction finds at its effective address. -/
def oldByte (o : Operand) (s : State) : Byte := (resolve o .rmw s).after.bus.value (resolve o .rmw s).ea

/-- The cycles a read-modify-write adds: read, write back, write (R61). -/
def modifyCycles (f : Byte → Flags → Byte × Flags) (o : Operand) (s : State) : List BusCycle :=
  let ea := (resolve o .rmw s).ea
  [.read ea (oldByte o s), .write ea (oldByte o s), .write ea (f (oldByte o s) s.p).1]

theorem ran_modifyOperand {f : Byte → Flags → Byte × Flags} {o : Operand} {s : State}
    (h : (∃ op, o = .imm op) ∨ FetchesAre o.bytes s) :
    Ran (resolveCycles o .rmw s ++ modifyCycles f o s) s (modifyOperand f o s) :=
  (ran_resolve h).trans (((ran_memRead _ _).trans (ran_memWrite _ _ _)).trans (ran_memWrite _ _ _))

theorem performed_modifyOperand (f : Byte → Flags → Byte × Flags) (o : Operand) (s : State) :
    Performed (resolveCycles o .rmw s ++ modifyCycles f o s) s (modifyOperand f o s) :=
  (performed_resolve o .rmw s).trans
    (((performed_memRead _ _).trans (performed_memWrite _ _ _)).trans (performed_memWrite _ _ _))

theorem modifyOperand_p (f : Byte → Flags → Byte × Flags) (o : Operand) (s : State) :
    (modifyOperand f o s).p = (f (oldByte o s) s.p).2 := rfl

theorem modifyOperand_storedAt (f : Byte → Flags → Byte × Flags) (o : Operand) {s : State} (h : s.bus.mem.wf = true) :
    StoredAt (resolve o .rmw s).ea (f (oldByte o s) s.p).1 s (modifyOperand f o s) := by
  have hr := resolve_wf o .rmw h
  have hw := (performed_memRead (resolve o .rmw s).ea (resolve o .rmw s).after).wf hr
  have k1 := memWrite_storedAt (resolve o .rmw s).ea (oldByte o s) hw
  have k2 := memWrite_storedAt (resolve o .rmw s).ea (f (oldByte o s) s.p).1 ((performed_memWrite (resolve o .rmw s).ea (oldByte o s) _).wf hw)
  refine ⟨?_, fun a ha => ?_⟩
  · refine k2.1.trans ?_
    simp only [storedByte, memWrite_bus, memRead_bus, Bus.perform_kindAt, resolve_kindAt]
    split
    · rfl
    · rename_i hk
      rw [k1.1]
      simp only [storedByte, memRead_bus, Bus.perform_kindAt, resolve_kindAt, hk, if_false]
      simpa [State.peek] using resolve_peek o .rmw s _
  · refine ((k2.2 a ha).trans (k1.2 a ha)).trans ?_
    simpa [State.peek] using resolve_peek o .rmw s a

end Sys2Proof.Machine
end

