-- ==== Sys2Proof/Laws/Exceptions.lean ====
section
/-! SUPPORT. The stack and the exceptions: what two and three pushes leave in memory, and what the shared entry (BRK, NMI, IRQ),
the return and the RESET sequence do, field by field and cycle by cycle. -/

namespace Sys2Proof.Machine

open Sys2Proof

/-- A push stores its byte at the stack address and leaves every other byte. -/
theorem push_storedAt (v : Byte) {s : State} (h : s.bus.mem.wf = true) : StoredAt (stackAddr s.sp) v s (push v s) :=
  memWrite_storedAt (stackAddr s.sp) v h

theorem push_wf (v : Byte) {s : State} (h : s.bus.mem.wf = true) : (push v s).bus.mem.wf = true :=
  (performed_push v s).wf h

/-- The stack slots of consecutive pushes are distinct, the pointer wrapping inside the page (R21). -/
theorem stackAddr_sub_one_ne (sp : Byte) : stackAddr (sp - 1) ≠ stackAddr sp := by
  rw [ne_eq, stackAddr_inj]; bv_omega

theorem stackAddr_sub_two_ne (sp : Byte) : stackAddr (sp - 2) ≠ stackAddr sp := by
  rw [ne_eq, stackAddr_inj]; bv_omega

theorem stackAddr_sub_two_ne_sub_one (sp : Byte) : stackAddr (sp - 2) ≠ stackAddr (sp - 1) := by
  rw [ne_eq, stackAddr_inj]; bv_omega

theorem storedByte_of_bus {s t : State} {a : Word} (v : Byte) (hk : t.bus.kindAt a = s.bus.kindAt a)
    (hp : t.peek a = s.peek a) : storedByte t a v = storedByte s a v := by
  simp [storedByte, hk, hp]

/-- Two pushes fill the two slots from the old S down. -/
theorem push2_stored (v w : Byte) {s : State} (h : s.bus.mem.wf = true) :
    (push w (push v s)).peek (stackAddr s.sp) = storedByte s (stackAddr s.sp) v ∧
    (push w (push v s)).peek (stackAddr (s.sp - 1)) = storedByte s (stackAddr (s.sp - 1)) w ∧
    MemoryUnchangedBut [stackAddr s.sp, stackAddr (s.sp - 1)] s (push w (push v s)) := by
  have h1 := push_storedAt v h
  have h2 := push_storedAt w (push_wf v h)
  have hne := stackAddr_sub_one_ne s.sp
  refine ⟨?_, ?_, fun a ha => ?_⟩
  · rw [h2.2 _ (by simpa using Ne.symm hne)]
    exact h1.1
  · refine h2.1.trans (storedByte_of_bus w (Bus.perform_kindAt _ _ _) ?_)
    exact h1.2 _ (by simpa using hne)
  · simp only [List.mem_cons, List.not_mem_nil, or_false, not_or] at ha
    rw [h2.2 a (by simpa using ha.2), h1.2 a (by simpa using ha.1)]

/-- Three pushes fill the three slots from the old S down. -/
theorem push3_stored (u v w : Byte) {s : State} (h : s.bus.mem.wf = true) :
    (push w (push v (push u s))).peek (stackAddr s.sp) = storedByte s (stackAddr s.sp) u ∧
    (push w (push v (push u s))).peek (stackAddr (s.sp - 1)) = storedByte s (stackAddr (s.sp - 1)) v ∧
    (push w (push v (push u s))).peek (stackAddr (s.sp - 2)) = storedByte s (stackAddr (s.sp - 2)) w ∧
    MemoryUnchangedBut [stackAddr s.sp, stackAddr (s.sp - 1), stackAddr (s.sp - 2)] s (push w (push v (push u s))) := by
  obtain ⟨h1, h2, h3⟩ := push2_stored u v h
  have k := push_storedAt w (push_wf v (push_wf u h))
  have e : (push v (push u s)).sp = s.sp - 2 := by simp only [push_sp]; bv_omega
  rw [e] at k
  have n1 := stackAddr_sub_two_ne s.sp
  have n2 := stackAddr_sub_two_ne_sub_one s.sp
  refine ⟨?_, ?_, ?_, fun a ha => ?_⟩
  · rw [k.2 _ (by simpa using Ne.symm n1)]; exact h1
  · rw [k.2 _ (by simpa using Ne.symm n2)]; exact h2
  · refine k.1.trans (storedByte_of_bus w ?_ ?_)
    · simp
    · exact h3 _ (by simp only [List.mem_cons, List.not_mem_nil, or_false, not_or]; exact ⟨n1, n2⟩)
  · simp only [List.mem_cons, List.not_mem_nil, or_false, not_or] at ha
    rw [k.2 a (by simpa using ha.2.2), h3 a (by simpa using ⟨ha.1, ha.2.1⟩)]

/-! Loading PC from a vector. -/

/-- The two bytes a vector read returns (R55, R236). -/
def vectorLo (vec : Word) (s : State) : Byte := s.bus.value vec
def vectorHi (vec : Word) (s : State) : Byte := (s.bus.perform (.read vec (vectorLo vec s))).value (vec + 1)

@[simp] theorem jumpThrough_pc (vec : Word) (s : State) :
    (jumpThrough vec s).pc = word (vectorLo vec s) (vectorHi vec s) := by
  simp [jumpThrough, vectorLo, vectorHi]

theorem ran_jumpThrough (vec : Word) (s : State) :
    Ran [.read vec (vectorLo vec s), .read (vec + 1) (vectorHi vec s)] s (jumpThrough vec s) := by
  have h := (ran_memRead vec s).trans (ran_memRead (vec + 1) _)
  exact ⟨h.1, h.2⟩

@[simp] theorem jumpThrough_peek (vec : Word) (s : State) (a : Word) : (jumpThrough vec s).peek a = s.peek a :=
  (ran_jumpThrough vec s).1.memoryUnchanged (by simp) a

/-! The shared entry. -/

/-- The state of an exception entry before its vector reads. -/
def framePushed (ret : Word) (pushedP : Byte) (s : State) : State :=
  let t := push pushedP (push (loByte ret) (push (hiByte ret) s))
  t.setP { t.p with i := true }

theorem enterHandler_eq (ret : Word) (pushedP : Byte) (vec : Word) (s : State) :
    enterHandler ret pushedP vec s = jumpThrough vec (framePushed ret pushedP s) := rfl

@[simp] theorem framePushed_a (ret : Word) (q : Byte) (s : State) : (framePushed ret q s).a = s.a := by simp [framePushed]
@[simp] theorem framePushed_x (ret : Word) (q : Byte) (s : State) : (framePushed ret q s).x = s.x := by simp [framePushed]
@[simp] theorem framePushed_y (ret : Word) (q : Byte) (s : State) : (framePushed ret q s).y = s.y := by simp [framePushed]
@[simp] theorem framePushed_p (ret : Word) (q : Byte) (s : State) : (framePushed ret q s).p = { s.p with i := true } := by simp [framePushed]
@[simp] theorem framePushed_pendingNmi (ret : Word) (q : Byte) (s : State) :
    (framePushed ret q s).pendingNmi = s.pendingNmi := by simp [framePushed]
@[simp] theorem framePushed_pendingIrq (ret : Word) (q : Byte) (s : State) :
    (framePushed ret q s).pendingIrq = s.pendingIrq := by simp [framePushed]
@[simp] theorem framePushed_phase (ret : Word) (q : Byte) (s : State) : (framePushed ret q s).phase = s.phase := by simp [framePushed]
@[simp] theorem framePushed_result (ret : Word) (q : Byte) (s : State) : (framePushed ret q s).result = s.result := by simp [framePushed]

@[simp] theorem framePushed_sp (ret : Word) (q : Byte) (s : State) : (framePushed ret q s).sp = s.sp - 3 := by
  simp only [framePushed, State.setP_sp, push_sp]; bv_omega

theorem ran_framePushed (ret : Word) (q : Byte) (s : State) :
    Ran [.write (stackAddr s.sp) (hiByte ret), .write (stackAddr (s.sp - 1)) (loByte ret),
      .write (stackAddr (s.sp - 2)) q] s (framePushed ret q s) := by
  have h := ((ran_push (hiByte ret) s).trans (ran_push (loByte ret) _)).trans (ran_push q _)
  have e : s.sp - 1 - 1 = s.sp - 2 := by bv_omega
  simp only [push_sp, e, List.cons_append, List.nil_append] at h
  exact h

/-- The frame an entry leaves on the stack: PC high, PC low, P (R235, R220). -/
theorem framePushed_stored (ret : Word) (q : Byte) {s : State} (h : s.bus.mem.wf = true) :
    (framePushed ret q s).peek (stackAddr s.sp) = storedByte s (stackAddr s.sp) (hiByte ret) ∧
    (framePushed ret q s).peek (stackAddr (s.sp - 1)) = storedByte s (stackAddr (s.sp - 1)) (loByte ret) ∧
    (framePushed ret q s).peek (stackAddr (s.sp - 2)) = storedByte s (stackAddr (s.sp - 2)) q ∧
    MemoryUnchangedBut [stackAddr s.sp, stackAddr (s.sp - 1), stackAddr (s.sp - 2)] s (framePushed ret q s) :=
  push3_stored (hiByte ret) (loByte ret) q h

/-- The state after the two cycles of an interrupt entry that come before its pushes (R235). -/
theorem interruptEntry_eq (vec : Word) (s : State) :
    interruptEntry vec s = jumpThrough vec (framePushed s.pc s.p.packIrq (idle (memRead s.pc s).2)) := rfl

theorem brkEntry_eq (s : State) :
    brkEntry s = jumpThrough irqVector (framePushed (s.pc + 1) s.p.packPhp (idle s)) := by
  rw [brkEntry, enterHandler_eq]

/-- All that an interrupt entry does (R235): its seven cycles, the registers, the frame on the stack, and nothing else. -/
theorem interruptEntry_spec (vec : Word) (s : State) :
    ∃ dummy lo hi, Ran [.read s.pc dummy, .idle, .write (stackAddr s.sp) (hiByte s.pc),
        .write (stackAddr (s.sp - 1)) (loByte s.pc), .write (stackAddr (s.sp - 2)) s.p.packIrq, .read vec lo,
        .read (vec + 1) hi] s (interruptEntry vec s) ∧
      (interruptEntry vec s).pc = word lo hi ∧ (interruptEntry vec s).sp = s.sp - 3 ∧
      (interruptEntry vec s).p = { s.p with i := true } ∧ RegistersKept (s.setSp (s.sp - 3)) (interruptEntry vec s) ∧
      ControlKept s (interruptEntry vec s) := by
  have r1 := (ran_memRead s.pc s).trans (ran_idle _)
  have r := (r1.trans (ran_framePushed s.pc s.p.packIrq _)).trans (ran_jumpThrough vec _)
  refine ⟨s.bus.value s.pc, vectorLo vec (framePushed s.pc s.p.packIrq (idle (memRead s.pc s).2)),
    vectorHi vec (framePushed s.pc s.p.packIrq (idle (memRead s.pc s).2)), ?_⟩
  rw [interruptEntry_eq]
  exact ⟨r, by simp, by simp, by simp, by simp [RegistersKept], ⟨by simp, by simp, by simp, r.1.platform, by simp⟩⟩

theorem interruptEntry_stored (vec : Word) {s : State} (h : s.bus.mem.wf = true) :
    (interruptEntry vec s).peek (stackAddr s.sp) = storedByte s (stackAddr s.sp) (hiByte s.pc) ∧
    (interruptEntry vec s).peek (stackAddr (s.sp - 1)) = storedByte s (stackAddr (s.sp - 1)) (loByte s.pc) ∧
    (interruptEntry vec s).peek (stackAddr (s.sp - 2)) = storedByte s (stackAddr (s.sp - 2)) s.p.packIrq ∧
    MemoryUnchangedBut [stackAddr s.sp, stackAddr (s.sp - 1), stackAddr (s.sp - 2)] s (interruptEntry vec s) := by
  have r1 := (ran_memRead s.pc s).trans (ran_idle _)
  have pk : ∀ a, (idle (memRead s.pc s).2).peek a = s.peek a := r1.1.memoryUnchanged (by simp)
  have sb : ∀ a v, storedByte (idle (memRead s.pc s).2) a v = storedByte s a v := fun a v =>
    storedByte_of_bus v (r1.1.kindAt a) (pk a)
  obtain ⟨h1, h2, h3, h4⟩ := framePushed_stored s.pc s.p.packIrq (r1.1.wf h)
  rw [interruptEntry_eq]
  simp only [idle_sp, memRead_sp, sb] at h1 h2 h3 h4
  refine ⟨by simpa using h1, by simpa using h2, by simpa using h3, fun a ha => ?_⟩
  rw [jumpThrough_peek, ← pk a]; exact h4 a ha

/-- All that BRK does after its opcode fetch (R220). -/
theorem brkEntry_spec (s : State) :
    ∃ lo hi, Ran [.idle, .write (stackAddr s.sp) (hiByte (s.pc + 1)), .write (stackAddr (s.sp - 1)) (loByte (s.pc + 1)),
        .write (stackAddr (s.sp - 2)) s.p.packPhp, .read irqVector lo, .read (irqVector + 1) hi] s (brkEntry s) ∧
      (brkEntry s).pc = word lo hi ∧ (brkEntry s).sp = s.sp - 3 ∧ (brkEntry s).p = { s.p with i := true } ∧
      RegistersKept (s.setSp (s.sp - 3)) (brkEntry s) ∧ ControlKept s (brkEntry s) := by
  have r := ((ran_idle s).trans (ran_framePushed (s.pc + 1) s.p.packPhp _)).trans (ran_jumpThrough irqVector _)
  refine ⟨vectorLo irqVector (framePushed (s.pc + 1) s.p.packPhp (idle s)),
    vectorHi irqVector (framePushed (s.pc + 1) s.p.packPhp (idle s)), ?_⟩
  rw [brkEntry_eq]
  exact ⟨r, by simp, by simp, by simp, by simp [RegistersKept], ⟨by simp, by simp, by simp, r.1.platform, by simp⟩⟩

theorem brkEntry_stored {s : State} (h : s.bus.mem.wf = true) :
    (brkEntry s).peek (stackAddr s.sp) = storedByte s (stackAddr s.sp) (hiByte (s.pc + 1)) ∧
    (brkEntry s).peek (stackAddr (s.sp - 1)) = storedByte s (stackAddr (s.sp - 1)) (loByte (s.pc + 1)) ∧
    (brkEntry s).peek (stackAddr (s.sp - 2)) = storedByte s (stackAddr (s.sp - 2)) s.p.packPhp ∧
    MemoryUnchangedBut [stackAddr s.sp, stackAddr (s.sp - 1), stackAddr (s.sp - 2)] s (brkEntry s) := by
  have sb : ∀ a v, storedByte (idle s) a v = storedByte s a v := fun a v => rfl
  obtain ⟨h1, h2, h3, h4⟩ := framePushed_stored (s.pc + 1) s.p.packPhp (s := idle s) h
  rw [brkEntry_eq]
  simp only [idle_sp, sb] at h1 h2 h3 h4
  refine ⟨by simpa using h1, by simpa using h2, by simpa using h3, fun a ha => ?_⟩
  rw [jumpThrough_peek]; exact h4 a ha

/-! Returns. -/

/-- All that RTI does after its opcode fetch (R221). -/
theorem returnFromInterrupt_spec (s : State) :
    ∃ v lo hi, Ran [.idle, .idle, .read (stackAddr (s.sp + 1)) v, .read (stackAddr (s.sp + 2)) lo,
        .read (stackAddr (s.sp + 3)) hi] s (returnFromInterrupt s) ∧
      (returnFromInterrupt s).pc = word lo hi ∧ (returnFromInterrupt s).sp = s.sp + 3 ∧
      (returnFromInterrupt s).p = Flags.unpack v ∧ RegistersKept (s.setSp (s.sp + 3)) (returnFromInterrupt s) ∧
      ControlKept s (returnFromInterrupt s) := by
  have e2 : s.sp + 1 + 1 = s.sp + 2 := by bv_omega
  have e3 : s.sp + 2 + 1 = s.sp + 3 := by bv_omega
  have r1 := ((ran_idle s).trans (ran_idle _)).trans (ran_pull _)
  have r2 := ran_pull ((pull (idle (idle s))).2.setP (Flags.unpack (pull (idle (idle s))).1))
  have r3 := ran_pull (pull ((pull (idle (idle s))).2.setP (Flags.unpack (pull (idle (idle s))).1))).2
  have r := (r1.trans r2).trans r3
  simp only [pull_sp, State.setP_sp, idle_sp, e2, e3, List.cons_append, List.nil_append] at r
  refine ⟨_, _, _, ⟨(performed_setPc _ _ _ _).2 r.1, r.2⟩, ?_⟩
  refine ⟨?_, ?_, by simp [returnFromInterrupt], ⟨by simp [returnFromInterrupt], by simp [returnFromInterrupt],
    by simp [returnFromInterrupt], ?_⟩, by simp [returnFromInterrupt], by simp [returnFromInterrupt],
    by simp [returnFromInterrupt], r.1.platform, by simp [returnFromInterrupt]⟩
  all_goals simp only [returnFromInterrupt, State.setPc_pc, State.setPc_sp, State.setSp_sp, pull_value, pull_sp,
    State.setP_sp, idle_sp, e2, e3]

/-- The state of the RESET sequence before its vector reads (R260): five idle cycles, S - 3 with no write, every flag. -/
def resetBeforeVector (s : State) : State :=
  ((idle (idle (idle (idle (idle s))))).setSp (s.sp - 3)).setP Flags.afterReset

theorem resetSequence_eq (s : State) :
    resetSequence s = ((jumpThrough resetVector (resetBeforeVector s)).setPendingNmi false).setPendingIrq false := by
  simp only [resetSequence, resetBeforeVector, idle_sp]

@[simp] theorem resetBeforeVector_bus (s : State) : (resetBeforeVector s).bus = s.bus := by simp [resetBeforeVector]

theorem ran_resetBeforeVector (s : State) : Ran [.idle, .idle, .idle, .idle, .idle] s (resetBeforeVector s) :=
  (((ran_idle s).trans (ran_idle _)).trans (ran_idle _)).trans ((ran_idle _).trans (ran_idle _))

@[simp] theorem vectorLo_resetBeforeVector (vec : Word) (s : State) :
    vectorLo vec (resetBeforeVector s) = vectorLo vec s := by simp [vectorLo]

@[simp] theorem vectorHi_resetBeforeVector (vec : Word) (s : State) :
    vectorHi vec (resetBeforeVector s) = vectorHi vec s := by simp [vectorHi]

/-- Every field of RESET's result but the bus, the record and the counter (R260). -/
theorem resetSequence_fields (s : State) :
    (resetSequence s).a = s.a ∧ (resetSequence s).x = s.x ∧ (resetSequence s).y = s.y ∧
    (resetSequence s).sp = s.sp - 3 ∧ (resetSequence s).p = Flags.afterReset ∧
    (resetSequence s).pc = word (vectorLo resetVector s) (vectorHi resetVector s) ∧
    (resetSequence s).pendingNmi = false ∧ (resetSequence s).pendingIrq = false ∧
    (resetSequence s).phase = s.phase ∧ (resetSequence s).result = s.result := by
  simp [resetSequence_eq]
  simp [resetBeforeVector]

theorem ran_resetSequence (s : State) :
    Ran [.idle, .idle, .idle, .idle, .idle, .read resetVector (vectorLo resetVector s),
      .read (resetVector + 1) (vectorHi resetVector s)] s (resetSequence s) := by
  have h := (ran_resetBeforeVector s).trans (ran_jumpThrough resetVector (resetBeforeVector s))
  simp only [vectorLo_resetBeforeVector, vectorHi_resetBeforeVector, List.cons_append, List.nil_append] at h
  rw [resetSequence_eq]
  simpa only [Ran, performed_setPendingIrq, performed_setPendingNmi] using h

end Sys2Proof.Machine
end

