-- ==== Sys2Proof/Laws/Control.lean ====
section
/-! SUPPORT. What branches, jumps, subroutine call and return, and the pulls do: their cycles, registers and frame. -/

namespace Sys2Proof.Machine

open Sys2Proof

/-! Branches. -/

/-- The idle cycles of a branch: none, one, or two (R180). -/
def branchIdles (cond crossed : Bool) : List BusCycle :=
  if cond then (if crossed then [.idle, .idle] else [.idle]) else []

theorem resolveRelative_after (offset : Int) (s : State) :
    (resolveRelative offset s).after = fetchByte (BitVec.ofInt 8 offset) s := rfl

/-- The cycles of a branch, in both cases (R180). -/
theorem performed_branch (cond : Bool) (offset : Int) (s : State) :
    Performed (.read s.pc (BitVec.ofInt 8 offset) :: branchIdles cond (resolveRelative offset s).crossed) s
      (branch cond offset s) := by
  have r := performed_fetchByte (BitVec.ofInt 8 offset) s
  cases cond
  · exact r
  · cases hc : (resolveRelative offset s).crossed
    · simpa [branch, hc, resolveRelative_after, branchIdles] using r.trans (performed_idle _)
    · simpa [branch, hc, resolveRelative_after, branchIdles] using (r.trans (performed_idle _)).trans (performed_idle _)

theorem branch_pc (cond : Bool) (offset : Int) (s : State) :
    (branch cond offset s).pc = if cond then (resolveRelative offset s).ea else s.pc + 1 := by
  cases cond <;> simp [branch, resolveRelative_after]

theorem branch_frame (cond : Bool) (offset : Int) (s : State) :
    RegistersKept s (branch cond offset s) ∧ (branch cond offset s).p = s.p ∧ ControlKept s (branch cond offset s) ∧
      MemoryUnchanged s (branch cond offset s) := by
  have r := performed_branch cond offset s
  have hw : ∀ a v, BusCycle.write a v ∉
      BusCycle.read s.pc (BitVec.ofInt 8 offset) :: branchIdles cond (resolveRelative offset s).crossed := by
    intro a v; simp only [branchIdles]; (repeat' split) <;> simp
  have hp := r.platform
  refine ⟨?_, ?_, ?_, r.memoryUnchanged hw⟩ <;>
    (try simp only [ControlKept, hp]) <;> cases cond <;> cases hc : (resolveRelative offset s).crossed <;>
      simp [RegistersKept, branch, hc, resolveRelative_after]

/-! Jumps. -/

theorem ran_jumpIndirect {ptr : Word} {s : State} (h : FetchesAre [loByte ptr, hiByte ptr] s) :
    ∃ lo hi, (jumpIndirect ptr s).pc = word lo hi ∧
      Ran [.read s.pc (loByte ptr), .read (s.pc + 1) (hiByte ptr), .read ptr lo, .read (indirectHighAddr ptr) hi] s
        (jumpIndirect ptr s) := by
  have r := ((ran_fetchWord h).trans (ran_memRead ptr _)).trans (ran_memRead (indirectHighAddr ptr) _)
  exact ⟨_, _, rfl, r⟩

theorem performed_jumpIndirect (ptr : Word) (s : State) :
    ∃ lo hi, (jumpIndirect ptr s).pc = word lo hi ∧
      Performed [.read s.pc (loByte ptr), .read (s.pc + 1) (hiByte ptr), .read ptr lo, .read (indirectHighAddr ptr) hi] s
        (jumpIndirect ptr s) ∧
      Answered (fetchWord ptr s).bus [.read ptr lo, .read (indirectHighAddr ptr) hi] := by
  have r := (ran_memRead ptr (fetchWord ptr s)).trans (ran_memRead (indirectHighAddr ptr) _)
  exact ⟨_, _, rfl, (performed_fetchWord ptr s).trans r.1, r.2⟩

/-! Subroutine call and return. -/

/-- The state of JSR before it reads its third byte (R190). -/
def jsrPushed (target : Word) (s : State) : State :=
  push (loByte (s.pc + 1)) (push (hiByte (s.pc + 1)) (idle (fetchByte (loByte target) s)))

theorem jumpToSubroutine_eq (target : Word) (s : State) :
    jumpToSubroutine target s = (memRead (s.pc + 1) (jsrPushed target s)).2.setPc
      (word (loByte target) ((jsrPushed target s).bus.value (s.pc + 1))) := by
  simp only [jumpToSubroutine, jsrPushed, idle_pc, fetchByte_pc, push_pc, memRead_value]

theorem performed_jsrPushed (target : Word) (s : State) :
    Performed [.read s.pc (loByte target), .idle, .write (stackAddr s.sp) (hiByte (s.pc + 1)),
      .write (stackAddr (s.sp - 1)) (loByte (s.pc + 1))] s (jsrPushed target s) :=
  (((performed_fetchByte (loByte target) s).trans (performed_idle _)).trans
    (performed_push (hiByte (s.pc + 1)) _)).trans (performed_push (loByte (s.pc + 1)) _)

theorem performed_jumpToSubroutine (target : Word) (s : State) :
    Performed ([.read s.pc (loByte target), .idle, .write (stackAddr s.sp) (hiByte (s.pc + 1)),
      .write (stackAddr (s.sp - 1)) (loByte (s.pc + 1))] ++
        [.read (s.pc + 1) ((jsrPushed target s).bus.value (s.pc + 1))]) s (jumpToSubroutine target s) := by
  rw [jumpToSubroutine_eq, performed_setPc]
  exact (performed_jsrPushed target s).trans (performed_memRead _ _)

theorem jumpToSubroutine_frame (target : Word) (s : State) :
    RegistersKept (s.setSp (s.sp - 2)) (jumpToSubroutine target s) ∧ (jumpToSubroutine target s).p = s.p ∧
      ControlKept s (jumpToSubroutine target s) := by
  have e : s.sp - 1 - 1 = s.sp - 2 := by bv_omega
  have hp := (performed_jumpToSubroutine target s).platform
  simp only [ControlKept, hp]
  rw [jumpToSubroutine_eq]
  refine ⟨⟨by simp [jsrPushed], by simp [jsrPushed], by simp [jsrPushed], ?_⟩, by simp [jsrPushed], by simp [jsrPushed],
    by simp [jsrPushed], by simp [jsrPushed], trivial, by simp [jsrPushed]⟩
  simp only [jsrPushed, State.setPc_sp, memRead_sp, push_sp, idle_sp, fetchByte_sp, State.setSp_sp, e]

/-- The return address JSR leaves on the stack: the address of its own third byte, high then low (R190). -/
theorem jumpToSubroutine_stored (target : Word) {s : State} (h : s.bus.mem.wf = true) :
    (jumpToSubroutine target s).peek (stackAddr s.sp) = storedByte s (stackAddr s.sp) (hiByte (s.pc + 1)) ∧
    (jumpToSubroutine target s).peek (stackAddr (s.sp - 1)) = storedByte s (stackAddr (s.sp - 1)) (loByte (s.pc + 1)) ∧
    MemoryUnchangedBut [stackAddr s.sp, stackAddr (s.sp - 1)] s (jumpToSubroutine target s) := by
  have r1 := (performed_fetchByte (loByte target) s).trans (performed_idle _)
  have pk : ∀ a, (idle (fetchByte (loByte target) s)).peek a = s.peek a := r1.memoryUnchanged (by simp)
  have sb : ∀ a v, storedByte (idle (fetchByte (loByte target) s)) a v = storedByte s a v := fun a v =>
    storedByte_of_bus v (r1.kindAt a) (pk a)
  obtain ⟨h1, h2, h3⟩ := push2_stored (hiByte (s.pc + 1)) (loByte (s.pc + 1)) (r1.wf h)
  have q : ∀ a, (jumpToSubroutine target s).peek a = (jsrPushed target s).peek a := fun a => by
    rw [jumpToSubroutine_eq]
    exact (performed_memRead (s.pc + 1) (jsrPushed target s)).memoryUnchanged (by simp) a
  simp only [idle_sp, fetchByte_sp, sb] at h1 h2 h3
  exact ⟨(q _).trans h1, (q _).trans h2, fun a ha => (q a).trans ((h3 a ha).trans (pk a))⟩

/-- All that RTS does after its opcode fetch (R191). -/
theorem returnFromSubroutine_spec (s : State) :
    ∃ lo hi, Ran [.idle, .idle, .read (stackAddr (s.sp + 1)) lo, .read (stackAddr (s.sp + 2)) hi, .idle] s
        (returnFromSubroutine s) ∧
      (returnFromSubroutine s).pc = word lo hi + 1 ∧ (returnFromSubroutine s).p = s.p ∧
      RegistersKept (s.setSp (s.sp + 2)) (returnFromSubroutine s) ∧ ControlKept s (returnFromSubroutine s) := by
  have e2 : s.sp + 1 + 1 = s.sp + 2 := by bv_omega
  have r1 := ((ran_idle s).trans (ran_idle _)).trans (ran_pull _)
  have r := (r1.trans (ran_pull _)).trans (ran_idle _)
  simp only [pull_sp, idle_sp, e2, List.cons_append, List.nil_append] at r
  refine ⟨_, _, ⟨(performed_setPc _ _ _ _).2 r.1, r.2⟩, ?_⟩
  refine ⟨?_, by simp [returnFromSubroutine], ⟨by simp [returnFromSubroutine], by simp [returnFromSubroutine],
    by simp [returnFromSubroutine], ?_⟩, by simp [returnFromSubroutine], by simp [returnFromSubroutine],
    by simp [returnFromSubroutine], r.1.platform, by simp [returnFromSubroutine]⟩
  all_goals simp only [returnFromSubroutine, State.setPc_pc, State.setPc_sp, State.setSp_sp, pull_value, pull_sp,
    idle_sp, e2]

/-! Pulls of one byte. -/

/-- The two idle cycles and the pull of PLA and PLP (R201, R203). -/
theorem ran_idle2_pull (s : State) :
    Ran [.idle, .idle, .read (stackAddr (s.sp + 1)) (s.bus.value (stackAddr (s.sp + 1)))] s (pull (idle (idle s))).2 :=
  ((ran_idle s).trans (ran_idle _)).trans (ran_pull _)

theorem pullA_eq (s : State) :
    pullA s = ((pull (idle (idle s))).2.setA (s.bus.value (stackAddr (s.sp + 1)))).setZN
      (s.bus.value (stackAddr (s.sp + 1))) := by
  simp only [pullA, pull_value, idle_sp, idle_bus]

theorem pullP_eq (s : State) :
    pullP s = (pull (idle (idle s))).2.setP (Flags.unpack (s.bus.value (stackAddr (s.sp + 1)))) := by
  simp only [pullP, pull_value, idle_sp, idle_bus]

end Sys2Proof.Machine
end

