-- ==== Sys2Proof/Laws/Exec.lean ====
section
/-! SUPPORT. The meaning of each mnemonic in every mode at once: `exec` as the shared operation applied to the operand. -/

namespace Sys2Proof.Machine

open Sys2Proof

/-! Memory operands. -/

theorem exec_lda {i : Instr} {o : Operand} (s : State) (hf : i.form = .mem o) (hm : i.mnemonic = .lda) :
    exec i s = .next (lda o s) := by
  cases i <;> cases hm <;> cases hf <;> rfl

theorem exec_ldx {i : Instr} {o : Operand} (s : State) (hf : i.form = .mem o) (hm : i.mnemonic = .ldx) :
    exec i s = .next (ldx o s) := by
  cases i <;> cases hm <;> cases hf <;> rfl

theorem exec_ldy {i : Instr} {o : Operand} (s : State) (hf : i.form = .mem o) (hm : i.mnemonic = .ldy) :
    exec i s = .next (ldy o s) := by
  cases i <;> cases hm <;> cases hf <;> rfl

theorem exec_sta {i : Instr} {o : Operand} (s : State) (hf : i.form = .mem o) (hm : i.mnemonic = .sta) :
    exec i s = .next (sta o s) := by
  cases i <;> cases hm <;> cases hf <;> rfl

theorem exec_stx {i : Instr} {o : Operand} (s : State) (hf : i.form = .mem o) (hm : i.mnemonic = .stx) :
    exec i s = .next (stx o s) := by
  cases i <;> cases hm <;> cases hf <;> rfl

theorem exec_sty {i : Instr} {o : Operand} (s : State) (hf : i.form = .mem o) (hm : i.mnemonic = .sty) :
    exec i s = .next (sty o s) := by
  cases i <;> cases hm <;> cases hf <;> rfl

theorem exec_adc {i : Instr} {o : Operand} (s : State) (hf : i.form = .mem o) (hm : i.mnemonic = .adc) :
    exec i s = .next (adc o s) := by
  cases i <;> cases hm <;> cases hf <;> rfl

theorem exec_sbc {i : Instr} {o : Operand} (s : State) (hf : i.form = .mem o) (hm : i.mnemonic = .sbc) :
    exec i s = .next (sbc o s) := by
  cases i <;> cases hm <;> cases hf <;> rfl

theorem exec_and {i : Instr} {o : Operand} (s : State) (hf : i.form = .mem o) (hm : i.mnemonic = .and) :
    exec i s = .next (andOp o s) := by
  cases i <;> cases hm <;> cases hf <;> rfl

theorem exec_ora {i : Instr} {o : Operand} (s : State) (hf : i.form = .mem o) (hm : i.mnemonic = .ora) :
    exec i s = .next (oraOp o s) := by
  cases i <;> cases hm <;> cases hf <;> rfl

theorem exec_eor {i : Instr} {o : Operand} (s : State) (hf : i.form = .mem o) (hm : i.mnemonic = .eor) :
    exec i s = .next (eorOp o s) := by
  cases i <;> cases hm <;> cases hf <;> rfl

theorem exec_inc {i : Instr} {o : Operand} (s : State) (hf : i.form = .mem o) (hm : i.mnemonic = .inc) :
    exec i s = .next (inc o s) := by
  cases i <;> cases hm <;> cases hf <;> rfl

theorem exec_dec {i : Instr} {o : Operand} (s : State) (hf : i.form = .mem o) (hm : i.mnemonic = .dec) :
    exec i s = .next (dec o s) := by
  cases i <;> cases hm <;> cases hf <;> rfl

theorem exec_asl {i : Instr} {o : Operand} (s : State) (hf : i.form = .mem o) (hm : i.mnemonic = .asl) :
    exec i s = .next (modifyOperand aslResult o s) := by
  cases i <;> cases hm <;> cases hf <;> rfl

theorem exec_lsr {i : Instr} {o : Operand} (s : State) (hf : i.form = .mem o) (hm : i.mnemonic = .lsr) :
    exec i s = .next (modifyOperand lsrResult o s) := by
  cases i <;> cases hm <;> cases hf <;> rfl

theorem exec_rol {i : Instr} {o : Operand} (s : State) (hf : i.form = .mem o) (hm : i.mnemonic = .rol) :
    exec i s = .next (modifyOperand rolResult o s) := by
  cases i <;> cases hm <;> cases hf <;> rfl

theorem exec_ror {i : Instr} {o : Operand} (s : State) (hf : i.form = .mem o) (hm : i.mnemonic = .ror) :
    exec i s = .next (modifyOperand rorResult o s) := by
  cases i <;> cases hm <;> cases hf <;> rfl

theorem exec_cmp {i : Instr} {o : Operand} (s : State) (hf : i.form = .mem o) (hm : i.mnemonic = .cmp) :
    exec i s = .next (compareWith s.a o s) := by
  cases i <;> cases hm <;> cases hf <;> rfl

theorem exec_cpx {i : Instr} {o : Operand} (s : State) (hf : i.form = .mem o) (hm : i.mnemonic = .cpx) :
    exec i s = .next (compareWith s.x o s) := by
  cases i <;> cases hm <;> cases hf <;> rfl

theorem exec_cpy {i : Instr} {o : Operand} (s : State) (hf : i.form = .mem o) (hm : i.mnemonic = .cpy) :
    exec i s = .next (compareWith s.y o s) := by
  cases i <;> cases hm <;> cases hf <;> rfl

theorem exec_bit {i : Instr} {o : Operand} (s : State) (hf : i.form = .mem o) (hm : i.mnemonic = .bit) :
    exec i s = .next (bitTest o s) := by
  cases i <;> cases hm <;> cases hf <;> rfl

/-- A memory operand belongs to one of the mnemonics of the three access classes (R95), or is the target of JMP or JSR. -/
theorem mnemonic_of_mem {i : Instr} {o : Operand} (hf : i.form = .mem o) :
    i.mnemonic ∈ [Mnemonic.lda, .ldx, .ldy, .adc, .sbc, .and, .ora, .eor, .cmp, .cpx, .cpy, .bit] ∨
      i.mnemonic ∈ [Mnemonic.sta, .stx, .sty] ∨
      i.mnemonic ∈ [Mnemonic.inc, .dec, .asl, .lsr, .rol, .ror] ∨
      (∃ addr, i = .jmpAbs addr ∨ i = .jsr addr) := by
  cases i <;> cases hf <;> simp [Instr.mnemonic]

/-! Branches. -/

/-- Every branch is `branch` on its own condition (R180 to R188). -/
theorem exec_branch {i : Instr} {offset : Int} (s : State) (hf : i.form = .rel offset) :
    exec i s = .next (branch (branchTaken i.mnemonic s.p) offset s) := by
  cases i <;> cases hf <;> rfl

/-! The accumulator. -/

/-- The accumulator forms are the four shifts and rotates. -/
theorem exec_acc {i : Instr} (s : State) (hf : i.form = .acc) :
    (i.mnemonic = .asl ∧ exec i s = .next (modifyAccumulator aslResult s)) ∨
    (i.mnemonic = .lsr ∧ exec i s = .next (modifyAccumulator lsrResult s)) ∨
    (i.mnemonic = .rol ∧ exec i s = .next (modifyAccumulator rolResult s)) ∨
    (i.mnemonic = .ror ∧ exec i s = .next (modifyAccumulator rorResult s)) := by
  cases i <;> cases hf <;> simp [Instr.mnemonic] <;> rfl

/-! Implied mode. -/

/-- An implied-mode instruction is one idle cycle and new registers, or one of seven that use the stack. -/
theorem exec_imp {i : Instr} (s : State) (hf : i.form = .imp) :
    (i.mnemonic ∈ [Mnemonic.tax, .tay, .tsx, .txa, .tya, .txs, .inx, .iny, .dex, .dey, .clc, .sec, .cld, .sed, .cli, .sei,
        .clv, .nop] ∧ ∃ r, exec i s = .next ((idle s).setRegs r)) ∨
      i = .pha ∨ i = .php ∨ i = .pla ∨ i = .plp ∨ i = .rts ∨ i = .rti ∨ i = .brk := by
  cases i <;> cases hf <;> first
    | (right; simp; done)
    | exact .inl ⟨by simp [Instr.mnemonic], ⟨_, _, _, _, _, _⟩, rfl⟩

/-- JMP indirect is the one instruction of its form. -/
theorem eq_jmpInd_of_form {i : Instr} {ptr : Word} (hf : i.form = .ind ptr) : i = .jmpInd ptr := by
  cases i <;> cases hf
  rfl

/-! The three access classes. -/

/-- What a read-class instruction leaves is the state after its operand read with other A, X, Y and P. -/
theorem exec_readClass {i : Instr} {o : Operand} (s : State) (hf : i.form = .mem o)
    (hm : i.mnemonic ∈ [Mnemonic.lda, .ldx, .ldy, .adc, .sbc, .and, .ora, .eor, .cmp, .cpx, .cpy, .bit]) :
    ∃ a x y p, exec i s = .next { (readOperand o s).2 with a := a, x := x, y := y, p := p } := by
  simp only [List.mem_cons, List.not_mem_nil, or_false] at hm
  rcases hm with hm | hm | hm | hm | hm | hm | hm | hm | hm | hm | hm | hm
  exacts [⟨_, _, _, _, exec_lda s hf hm⟩, ⟨_, _, _, _, exec_ldx s hf hm⟩, ⟨_, _, _, _, exec_ldy s hf hm⟩,
    ⟨_, _, _, _, exec_adc s hf hm⟩, ⟨_, _, _, _, exec_sbc s hf hm⟩, ⟨_, _, _, _, exec_and s hf hm⟩,
    ⟨_, _, _, _, exec_ora s hf hm⟩, ⟨_, _, _, _, exec_eor s hf hm⟩, ⟨_, _, _, _, exec_cmp s hf hm⟩,
    ⟨_, _, _, _, exec_cpx s hf hm⟩, ⟨_, _, _, _, exec_cpy s hf hm⟩, ⟨_, _, _, _, exec_bit s hf hm⟩]

theorem exec_writeClass {i : Instr} {o : Operand} (s : State) (hf : i.form = .mem o)
    (hm : i.mnemonic ∈ [Mnemonic.sta, .stx, .sty]) : ∃ v, exec i s = .next (writeOperand o v s) := by
  simp only [List.mem_cons, List.not_mem_nil, or_false] at hm
  rcases hm with hm | hm | hm
  exacts [⟨_, exec_sta s hf hm⟩, ⟨_, exec_stx s hf hm⟩, ⟨_, exec_sty s hf hm⟩]

theorem exec_rmwClass {i : Instr} {o : Operand} (s : State) (hf : i.form = .mem o)
    (hm : i.mnemonic ∈ [Mnemonic.inc, .dec, .asl, .lsr, .rol, .ror]) :
    ∃ f, exec i s = .next (modifyOperand f o s) := by
  simp only [List.mem_cons, List.not_mem_nil, or_false] at hm
  rcases hm with hm | hm | hm | hm | hm | hm
  exacts [⟨_, exec_inc s hf hm⟩, ⟨_, exec_dec s hf hm⟩, ⟨_, exec_asl s hf hm⟩, ⟨_, exec_lsr s hf hm⟩,
    ⟨_, exec_rol s hf hm⟩, ⟨_, exec_ror s hf hm⟩]

/-- Store and read-modify-write instructions have no immediate form (R74). -/
theorem not_imm_of_writes {i : Instr} {o : Operand} (hf : i.form = .mem o)
    (hm : i.mnemonic ∈ [Mnemonic.sta, .stx, .sty, .inc, .dec, .asl, .lsr, .rol, .ror]) (op : Byte) : o ≠ .imm op := by
  rintro rfl
  cases i <;> cases hf <;> simp [Instr.mnemonic] at hm

end Sys2Proof.Machine
end

