-- ==== Sys2Proof/Laws/PerInstr.lean ====
section
/-! SUPPORT. One lemma per instruction: its row of the dispatch table is the one its mnemonic and mode give by the cycle rules,
and its own bytes select it. -/

namespace Sys2Proof.Laws

open Sys2Proof Sys2Proof.Machine

/-- The base cycles of a memory operand: the fetches and reads of the resolver, plus what the access class adds (R61, R83 to
R96). -/
def operandCycles (o : Operand) (cls : AccessClass) : Nat :=
  let indexed : Nat := match cls with
    | .read => 0
    | .write | .rmw => 1
  let access : Nat := match cls with
    | .read | .write => 1
    | .rmw => 3
  match o with
  | .imm _ => 2
  | .zp _ => 2 + access
  | .zpx _ | .zpy _ => 3 + access
  | .abs _ => 3 + access
  | .absx _ | .absy _ => 3 + indexed + access
  | .izx _ => 5 + access
  | .izy _ => 4 + indexed + access

/-- The access class of each mnemonic with a memory operand (R95); `none` for the targets of JMP and JSR and for the rest. -/
def accessClassOf (m : Mnemonic) : Option AccessClass :=
  match m with
  | .lda | .ldx | .ldy | .adc | .sbc | .and | .ora | .eor | .cmp | .cpx | .cpy | .bit => some .read
  | .sta | .stx | .sty => some .write
  | .inc | .dec | .asl | .lsr | .rol | .ror => some .rmw
  | .tax | .tay | .tsx | .txa | .tya | .txs | .inx | .iny | .dex | .dey | .bpl | .bmi | .bvc | .bvs | .bcc | .bcs | .bne
  | .beq | .jmp | .jsr | .rts | .pha | .pla | .php | .plp | .clc | .sec | .cld | .sed | .cli | .sei | .clv | .nop | .brk
  | .rti => none

/-- The base cycles of the rules that have no operand in memory, with the opcode fetch. -/
def ruleCycles (m : Mnemonic) : Nat :=
  match m with
  | .jmp => 3
  | .jsr | .rts | .rti => 6
  | .pha | .php => 3
  | .pla | .plp => 4
  | .brk => 7
  | .lda | .ldx | .ldy | .adc | .sbc | .and | .ora | .eor | .cmp | .cpx | .cpy | .bit | .sta | .stx | .sty | .inc | .dec
  | .asl | .lsr | .rol | .ror | .tax | .tay | .tsx | .txa | .tya | .txs | .inx | .iny | .dex | .dey | .bpl | .bmi | .bvc
  | .bvs | .bcc | .bcs | .bne | .beq | .clc | .sec | .cld | .sed | .cli | .sei | .clv | .nop => 2

/-- The cycles of an instruction from its mnemonic and mode alone. -/
def cyclesOf (i : Instr) : Nat :=
  match i.form, accessClassOf i.mnemonic with
  | .mem o, some cls => operandCycles o cls
  | .ind _, _ => 5
  | _, _ => ruleCycles i.mnemonic

/-- Whether a read in this mode pays for a page cross (R96). -/
def crossAdds (i : Instr) : Bool :=
  match i.form, accessClassOf i.mnemonic with
  | .mem (.absx _), some .read | .mem (.absy _), some .read | .mem (.izy _), some .read => true
  | _, _ => false

namespace TableRow

/-- The row of the dispatch table, and the decoder's answer on the instruction's own bytes. -/
def Statement (i : Instr) : Prop :=
  dispatchTable i.opcode = some ⟨i.mnemonic, i.form.mode, cyclesOf i, crossAdds i⟩ ∧
  i.form.bytes.length = i.form.mode.operandLength ∧
  (i.wellFormed = true → ∀ lo hi : Byte, i.form.bytes = [lo, hi].take i.form.mode.operandLength →
    instrOf i.opcode lo hi = some i)

theorem byte_of_bytes {op lo hi : Byte} (h : [op] = [lo, hi].take 1) : op = lo := by simpa using h

theorem word_of_bytes {addr : Word} {lo hi : Byte} (h : [loByte addr, hiByte addr] = [lo, hi].take 2) :
    addr = word lo hi := by
  simp only [List.take, List.cons.injEq] at h
  rw [← h.1, ← h.2.1, word_lo_hi]

theorem offset_of_bytes {offset : Int} {lo hi : Byte} (hf : branchOffsetFits offset = true)
    (h : [BitVec.ofInt 8 offset] = [lo, hi].take 1) : offset = lo.toInt := by
  simp only [List.take, List.cons.injEq, and_true] at h
  simp only [branchOffsetFits, Bool.and_eq_true, decide_eq_true_eq] at hf
  rw [← h, BitVec.toInt_ofInt, Int.bmod]
  omega

theorem brk : Statement .brk := ⟨rfl, rfl, fun _ _ _ _ => rfl⟩
theorem oraIzx (op : Byte) : Statement (.oraIzx op) := ⟨rfl, rfl, fun _ _ _ h => byte_of_bytes h ▸ rfl⟩
theorem oraZp (op : Byte) : Statement (.oraZp op) := ⟨rfl, rfl, fun _ _ _ h => byte_of_bytes h ▸ rfl⟩
theorem aslZp (op : Byte) : Statement (.aslZp op) := ⟨rfl, rfl, fun _ _ _ h => byte_of_bytes h ▸ rfl⟩
theorem php : Statement .php := ⟨rfl, rfl, fun _ _ _ _ => rfl⟩
theorem oraImm (op : Byte) : Statement (.oraImm op) := ⟨rfl, rfl, fun _ _ _ h => byte_of_bytes h ▸ rfl⟩
theorem aslAcc : Statement .aslAcc := ⟨rfl, rfl, fun _ _ _ _ => rfl⟩
theorem oraAbs (addr : Word) : Statement (.oraAbs addr) := ⟨rfl, rfl, fun _ _ _ h => word_of_bytes h ▸ rfl⟩
theorem aslAbs (addr : Word) : Statement (.aslAbs addr) := ⟨rfl, rfl, fun _ _ _ h => word_of_bytes h ▸ rfl⟩
theorem bpl (offset : Int) : Statement (.bpl offset) :=
  ⟨rfl, rfl, fun w _ _ h => offset_of_bytes w h ▸ rfl⟩
theorem oraIzy (op : Byte) : Statement (.oraIzy op) := ⟨rfl, rfl, fun _ _ _ h => byte_of_bytes h ▸ rfl⟩
theorem oraZpx (op : Byte) : Statement (.oraZpx op) := ⟨rfl, rfl, fun _ _ _ h => byte_of_bytes h ▸ rfl⟩
theorem aslZpx (op : Byte) : Statement (.aslZpx op) := ⟨rfl, rfl, fun _ _ _ h => byte_of_bytes h ▸ rfl⟩
theorem clc : Statement .clc := ⟨rfl, rfl, fun _ _ _ _ => rfl⟩
theorem oraAbsy (addr : Word) : Statement (.oraAbsy addr) := ⟨rfl, rfl, fun _ _ _ h => word_of_bytes h ▸ rfl⟩
theorem oraAbsx (addr : Word) : Statement (.oraAbsx addr) := ⟨rfl, rfl, fun _ _ _ h => word_of_bytes h ▸ rfl⟩
theorem aslAbsx (addr : Word) : Statement (.aslAbsx addr) := ⟨rfl, rfl, fun _ _ _ h => word_of_bytes h ▸ rfl⟩
theorem jsr (addr : Word) : Statement (.jsr addr) := ⟨rfl, rfl, fun _ _ _ h => word_of_bytes h ▸ rfl⟩
theorem andIzx (op : Byte) : Statement (.andIzx op) := ⟨rfl, rfl, fun _ _ _ h => byte_of_bytes h ▸ rfl⟩
theorem bitZp (op : Byte) : Statement (.bitZp op) := ⟨rfl, rfl, fun _ _ _ h => byte_of_bytes h ▸ rfl⟩
theorem andZp (op : Byte) : Statement (.andZp op) := ⟨rfl, rfl, fun _ _ _ h => byte_of_bytes h ▸ rfl⟩
theorem rolZp (op : Byte) : Statement (.rolZp op) := ⟨rfl, rfl, fun _ _ _ h => byte_of_bytes h ▸ rfl⟩
theorem plp : Statement .plp := ⟨rfl, rfl, fun _ _ _ _ => rfl⟩
theorem andImm (op : Byte) : Statement (.andImm op) := ⟨rfl, rfl, fun _ _ _ h => byte_of_bytes h ▸ rfl⟩
theorem rolAcc : Statement .rolAcc := ⟨rfl, rfl, fun _ _ _ _ => rfl⟩
theorem bitAbs (addr : Word) : Statement (.bitAbs addr) := ⟨rfl, rfl, fun _ _ _ h => word_of_bytes h ▸ rfl⟩
theorem andAbs (addr : Word) : Statement (.andAbs addr) := ⟨rfl, rfl, fun _ _ _ h => word_of_bytes h ▸ rfl⟩
theorem rolAbs (addr : Word) : Statement (.rolAbs addr) := ⟨rfl, rfl, fun _ _ _ h => word_of_bytes h ▸ rfl⟩
theorem bmi (offset : Int) : Statement (.bmi offset) :=
  ⟨rfl, rfl, fun w _ _ h => offset_of_bytes w h ▸ rfl⟩
theorem andIzy (op : Byte) : Statement (.andIzy op) := ⟨rfl, rfl, fun _ _ _ h => byte_of_bytes h ▸ rfl⟩
theorem andZpx (op : Byte) : Statement (.andZpx op) := ⟨rfl, rfl, fun _ _ _ h => byte_of_bytes h ▸ rfl⟩
theorem rolZpx (op : Byte) : Statement (.rolZpx op) := ⟨rfl, rfl, fun _ _ _ h => byte_of_bytes h ▸ rfl⟩
theorem sec : Statement .sec := ⟨rfl, rfl, fun _ _ _ _ => rfl⟩
theorem andAbsy (addr : Word) : Statement (.andAbsy addr) := ⟨rfl, rfl, fun _ _ _ h => word_of_bytes h ▸ rfl⟩
theorem andAbsx (addr : Word) : Statement (.andAbsx addr) := ⟨rfl, rfl, fun _ _ _ h => word_of_bytes h ▸ rfl⟩
theorem rolAbsx (addr : Word) : Statement (.rolAbsx addr) := ⟨rfl, rfl, fun _ _ _ h => word_of_bytes h ▸ rfl⟩
theorem rti : Statement .rti := ⟨rfl, rfl, fun _ _ _ _ => rfl⟩
theorem eorIzx (op : Byte) : Statement (.eorIzx op) := ⟨rfl, rfl, fun _ _ _ h => byte_of_bytes h ▸ rfl⟩
theorem eorZp (op : Byte) : Statement (.eorZp op) := ⟨rfl, rfl, fun _ _ _ h => byte_of_bytes h ▸ rfl⟩
theorem lsrZp (op : Byte) : Statement (.lsrZp op) := ⟨rfl, rfl, fun _ _ _ h => byte_of_bytes h ▸ rfl⟩
theorem pha : Statement .pha := ⟨rfl, rfl, fun _ _ _ _ => rfl⟩
theorem eorImm (op : Byte) : Statement (.eorImm op) := ⟨rfl, rfl, fun _ _ _ h => byte_of_bytes h ▸ rfl⟩
theorem lsrAcc : Statement .lsrAcc := ⟨rfl, rfl, fun _ _ _ _ => rfl⟩
theorem jmpAbs (addr : Word) : Statement (.jmpAbs addr) := ⟨rfl, rfl, fun _ _ _ h => word_of_bytes h ▸ rfl⟩
theorem eorAbs (addr : Word) : Statement (.eorAbs addr) := ⟨rfl, rfl, fun _ _ _ h => word_of_bytes h ▸ rfl⟩
theorem lsrAbs (addr : Word) : Statement (.lsrAbs addr) := ⟨rfl, rfl, fun _ _ _ h => word_of_bytes h ▸ rfl⟩
theorem bvc (offset : Int) : Statement (.bvc offset) :=
  ⟨rfl, rfl, fun w _ _ h => offset_of_bytes w h ▸ rfl⟩
theorem eorIzy (op : Byte) : Statement (.eorIzy op) := ⟨rfl, rfl, fun _ _ _ h => byte_of_bytes h ▸ rfl⟩
theorem eorZpx (op : Byte) : Statement (.eorZpx op) := ⟨rfl, rfl, fun _ _ _ h => byte_of_bytes h ▸ rfl⟩
theorem lsrZpx (op : Byte) : Statement (.lsrZpx op) := ⟨rfl, rfl, fun _ _ _ h => byte_of_bytes h ▸ rfl⟩
theorem cli : Statement .cli := ⟨rfl, rfl, fun _ _ _ _ => rfl⟩
theorem eorAbsy (addr : Word) : Statement (.eorAbsy addr) := ⟨rfl, rfl, fun _ _ _ h => word_of_bytes h ▸ rfl⟩
theorem eorAbsx (addr : Word) : Statement (.eorAbsx addr) := ⟨rfl, rfl, fun _ _ _ h => word_of_bytes h ▸ rfl⟩
theorem lsrAbsx (addr : Word) : Statement (.lsrAbsx addr) := ⟨rfl, rfl, fun _ _ _ h => word_of_bytes h ▸ rfl⟩
theorem rts : Statement .rts := ⟨rfl, rfl, fun _ _ _ _ => rfl⟩
theorem adcIzx (op : Byte) : Statement (.adcIzx op) := ⟨rfl, rfl, fun _ _ _ h => byte_of_bytes h ▸ rfl⟩
theorem adcZp (op : Byte) : Statement (.adcZp op) := ⟨rfl, rfl, fun _ _ _ h => byte_of_bytes h ▸ rfl⟩
theorem rorZp (op : Byte) : Statement (.rorZp op) := ⟨rfl, rfl, fun _ _ _ h => byte_of_bytes h ▸ rfl⟩
theorem pla : Statement .pla := ⟨rfl, rfl, fun _ _ _ _ => rfl⟩
theorem adcImm (op : Byte) : Statement (.adcImm op) := ⟨rfl, rfl, fun _ _ _ h => byte_of_bytes h ▸ rfl⟩
theorem rorAcc : Statement .rorAcc := ⟨rfl, rfl, fun _ _ _ _ => rfl⟩
theorem jmpInd (addr : Word) : Statement (.jmpInd addr) := ⟨rfl, rfl, fun _ _ _ h => word_of_bytes h ▸ rfl⟩
theorem adcAbs (addr : Word) : Statement (.adcAbs addr) := ⟨rfl, rfl, fun _ _ _ h => word_of_bytes h ▸ rfl⟩
theorem rorAbs (addr : Word) : Statement (.rorAbs addr) := ⟨rfl, rfl, fun _ _ _ h => word_of_bytes h ▸ rfl⟩
theorem bvs (offset : Int) : Statement (.bvs offset) :=
  ⟨rfl, rfl, fun w _ _ h => offset_of_bytes w h ▸ rfl⟩
theorem adcIzy (op : Byte) : Statement (.adcIzy op) := ⟨rfl, rfl, fun _ _ _ h => byte_of_bytes h ▸ rfl⟩
theorem adcZpx (op : Byte) : Statement (.adcZpx op) := ⟨rfl, rfl, fun _ _ _ h => byte_of_bytes h ▸ rfl⟩
theorem rorZpx (op : Byte) : Statement (.rorZpx op) := ⟨rfl, rfl, fun _ _ _ h => byte_of_bytes h ▸ rfl⟩
theorem sei : Statement .sei := ⟨rfl, rfl, fun _ _ _ _ => rfl⟩
theorem adcAbsy (addr : Word) : Statement (.adcAbsy addr) := ⟨rfl, rfl, fun _ _ _ h => word_of_bytes h ▸ rfl⟩
theorem adcAbsx (addr : Word) : Statement (.adcAbsx addr) := ⟨rfl, rfl, fun _ _ _ h => word_of_bytes h ▸ rfl⟩
theorem rorAbsx (addr : Word) : Statement (.rorAbsx addr) := ⟨rfl, rfl, fun _ _ _ h => word_of_bytes h ▸ rfl⟩
theorem staIzx (op : Byte) : Statement (.staIzx op) := ⟨rfl, rfl, fun _ _ _ h => byte_of_bytes h ▸ rfl⟩
theorem styZp (op : Byte) : Statement (.styZp op) := ⟨rfl, rfl, fun _ _ _ h => byte_of_bytes h ▸ rfl⟩
theorem staZp (op : Byte) : Statement (.staZp op) := ⟨rfl, rfl, fun _ _ _ h => byte_of_bytes h ▸ rfl⟩
theorem stxZp (op : Byte) : Statement (.stxZp op) := ⟨rfl, rfl, fun _ _ _ h => byte_of_bytes h ▸ rfl⟩
theorem dey : Statement .dey := ⟨rfl, rfl, fun _ _ _ _ => rfl⟩
theorem txa : Statement .txa := ⟨rfl, rfl, fun _ _ _ _ => rfl⟩
theorem styAbs (addr : Word) : Statement (.styAbs addr) := ⟨rfl, rfl, fun _ _ _ h => word_of_bytes h ▸ rfl⟩
theorem staAbs (addr : Word) : Statement (.staAbs addr) := ⟨rfl, rfl, fun _ _ _ h => word_of_bytes h ▸ rfl⟩
theorem stxAbs (addr : Word) : Statement (.stxAbs addr) := ⟨rfl, rfl, fun _ _ _ h => word_of_bytes h ▸ rfl⟩
theorem bcc (offset : Int) : Statement (.bcc offset) :=
  ⟨rfl, rfl, fun w _ _ h => offset_of_bytes w h ▸ rfl⟩
theorem staIzy (op : Byte) : Statement (.staIzy op) := ⟨rfl, rfl, fun _ _ _ h => byte_of_bytes h ▸ rfl⟩
theorem styZpx (op : Byte) : Statement (.styZpx op) := ⟨rfl, rfl, fun _ _ _ h => byte_of_bytes h ▸ rfl⟩
theorem staZpx (op : Byte) : Statement (.staZpx op) := ⟨rfl, rfl, fun _ _ _ h => byte_of_bytes h ▸ rfl⟩
theorem stxZpy (op : Byte) : Statement (.stxZpy op) := ⟨rfl, rfl, fun _ _ _ h => byte_of_bytes h ▸ rfl⟩
theorem tya : Statement .tya := ⟨rfl, rfl, fun _ _ _ _ => rfl⟩
theorem staAbsy (addr : Word) : Statement (.staAbsy addr) := ⟨rfl, rfl, fun _ _ _ h => word_of_bytes h ▸ rfl⟩
theorem txs : Statement .txs := ⟨rfl, rfl, fun _ _ _ _ => rfl⟩
theorem staAbsx (addr : Word) : Statement (.staAbsx addr) := ⟨rfl, rfl, fun _ _ _ h => word_of_bytes h ▸ rfl⟩
theorem ldyImm (op : Byte) : Statement (.ldyImm op) := ⟨rfl, rfl, fun _ _ _ h => byte_of_bytes h ▸ rfl⟩
theorem ldaIzx (op : Byte) : Statement (.ldaIzx op) := ⟨rfl, rfl, fun _ _ _ h => byte_of_bytes h ▸ rfl⟩
theorem ldxImm (op : Byte) : Statement (.ldxImm op) := ⟨rfl, rfl, fun _ _ _ h => byte_of_bytes h ▸ rfl⟩
theorem ldyZp (op : Byte) : Statement (.ldyZp op) := ⟨rfl, rfl, fun _ _ _ h => byte_of_bytes h ▸ rfl⟩
theorem ldaZp (op : Byte) : Statement (.ldaZp op) := ⟨rfl, rfl, fun _ _ _ h => byte_of_bytes h ▸ rfl⟩
theorem ldxZp (op : Byte) : Statement (.ldxZp op) := ⟨rfl, rfl, fun _ _ _ h => byte_of_bytes h ▸ rfl⟩
theorem tay : Statement .tay := ⟨rfl, rfl, fun _ _ _ _ => rfl⟩
theorem ldaImm (op : Byte) : Statement (.ldaImm op) := ⟨rfl, rfl, fun _ _ _ h => byte_of_bytes h ▸ rfl⟩
theorem tax : Statement .tax := ⟨rfl, rfl, fun _ _ _ _ => rfl⟩
theorem ldyAbs (addr : Word) : Statement (.ldyAbs addr) := ⟨rfl, rfl, fun _ _ _ h => word_of_bytes h ▸ rfl⟩
theorem ldaAbs (addr : Word) : Statement (.ldaAbs addr) := ⟨rfl, rfl, fun _ _ _ h => word_of_bytes h ▸ rfl⟩
theorem ldxAbs (addr : Word) : Statement (.ldxAbs addr) := ⟨rfl, rfl, fun _ _ _ h => word_of_bytes h ▸ rfl⟩
theorem bcs (offset : Int) : Statement (.bcs offset) :=
  ⟨rfl, rfl, fun w _ _ h => offset_of_bytes w h ▸ rfl⟩
theorem ldaIzy (op : Byte) : Statement (.ldaIzy op) := ⟨rfl, rfl, fun _ _ _ h => byte_of_bytes h ▸ rfl⟩
theorem ldyZpx (op : Byte) : Statement (.ldyZpx op) := ⟨rfl, rfl, fun _ _ _ h => byte_of_bytes h ▸ rfl⟩
theorem ldaZpx (op : Byte) : Statement (.ldaZpx op) := ⟨rfl, rfl, fun _ _ _ h => byte_of_bytes h ▸ rfl⟩
theorem ldxZpy (op : Byte) : Statement (.ldxZpy op) := ⟨rfl, rfl, fun _ _ _ h => byte_of_bytes h ▸ rfl⟩
theorem clv : Statement .clv := ⟨rfl, rfl, fun _ _ _ _ => rfl⟩
theorem ldaAbsy (addr : Word) : Statement (.ldaAbsy addr) := ⟨rfl, rfl, fun _ _ _ h => word_of_bytes h ▸ rfl⟩
theorem tsx : Statement .tsx := ⟨rfl, rfl, fun _ _ _ _ => rfl⟩
theorem ldyAbsx (addr : Word) : Statement (.ldyAbsx addr) := ⟨rfl, rfl, fun _ _ _ h => word_of_bytes h ▸ rfl⟩
theorem ldaAbsx (addr : Word) : Statement (.ldaAbsx addr) := ⟨rfl, rfl, fun _ _ _ h => word_of_bytes h ▸ rfl⟩
theorem ldxAbsy (addr : Word) : Statement (.ldxAbsy addr) := ⟨rfl, rfl, fun _ _ _ h => word_of_bytes h ▸ rfl⟩
theorem cpyImm (op : Byte) : Statement (.cpyImm op) := ⟨rfl, rfl, fun _ _ _ h => byte_of_bytes h ▸ rfl⟩
theorem cmpIzx (op : Byte) : Statement (.cmpIzx op) := ⟨rfl, rfl, fun _ _ _ h => byte_of_bytes h ▸ rfl⟩
theorem cpyZp (op : Byte) : Statement (.cpyZp op) := ⟨rfl, rfl, fun _ _ _ h => byte_of_bytes h ▸ rfl⟩
theorem cmpZp (op : Byte) : Statement (.cmpZp op) := ⟨rfl, rfl, fun _ _ _ h => byte_of_bytes h ▸ rfl⟩
theorem decZp (op : Byte) : Statement (.decZp op) := ⟨rfl, rfl, fun _ _ _ h => byte_of_bytes h ▸ rfl⟩
theorem iny : Statement .iny := ⟨rfl, rfl, fun _ _ _ _ => rfl⟩
theorem cmpImm (op : Byte) : Statement (.cmpImm op) := ⟨rfl, rfl, fun _ _ _ h => byte_of_bytes h ▸ rfl⟩
theorem dex : Statement .dex := ⟨rfl, rfl, fun _ _ _ _ => rfl⟩
theorem cpyAbs (addr : Word) : Statement (.cpyAbs addr) := ⟨rfl, rfl, fun _ _ _ h => word_of_bytes h ▸ rfl⟩
theorem cmpAbs (addr : Word) : Statement (.cmpAbs addr) := ⟨rfl, rfl, fun _ _ _ h => word_of_bytes h ▸ rfl⟩
theorem decAbs (addr : Word) : Statement (.decAbs addr) := ⟨rfl, rfl, fun _ _ _ h => word_of_bytes h ▸ rfl⟩
theorem bne (offset : Int) : Statement (.bne offset) :=
  ⟨rfl, rfl, fun w _ _ h => offset_of_bytes w h ▸ rfl⟩
theorem cmpIzy (op : Byte) : Statement (.cmpIzy op) := ⟨rfl, rfl, fun _ _ _ h => byte_of_bytes h ▸ rfl⟩
theorem cmpZpx (op : Byte) : Statement (.cmpZpx op) := ⟨rfl, rfl, fun _ _ _ h => byte_of_bytes h ▸ rfl⟩
theorem decZpx (op : Byte) : Statement (.decZpx op) := ⟨rfl, rfl, fun _ _ _ h => byte_of_bytes h ▸ rfl⟩
theorem cld : Statement .cld := ⟨rfl, rfl, fun _ _ _ _ => rfl⟩
theorem cmpAbsy (addr : Word) : Statement (.cmpAbsy addr) := ⟨rfl, rfl, fun _ _ _ h => word_of_bytes h ▸ rfl⟩
theorem cmpAbsx (addr : Word) : Statement (.cmpAbsx addr) := ⟨rfl, rfl, fun _ _ _ h => word_of_bytes h ▸ rfl⟩
theorem decAbsx (addr : Word) : Statement (.decAbsx addr) := ⟨rfl, rfl, fun _ _ _ h => word_of_bytes h ▸ rfl⟩
theorem cpxImm (op : Byte) : Statement (.cpxImm op) := ⟨rfl, rfl, fun _ _ _ h => byte_of_bytes h ▸ rfl⟩
theorem sbcIzx (op : Byte) : Statement (.sbcIzx op) := ⟨rfl, rfl, fun _ _ _ h => byte_of_bytes h ▸ rfl⟩
theorem cpxZp (op : Byte) : Statement (.cpxZp op) := ⟨rfl, rfl, fun _ _ _ h => byte_of_bytes h ▸ rfl⟩
theorem sbcZp (op : Byte) : Statement (.sbcZp op) := ⟨rfl, rfl, fun _ _ _ h => byte_of_bytes h ▸ rfl⟩
theorem incZp (op : Byte) : Statement (.incZp op) := ⟨rfl, rfl, fun _ _ _ h => byte_of_bytes h ▸ rfl⟩
theorem inx : Statement .inx := ⟨rfl, rfl, fun _ _ _ _ => rfl⟩
theorem sbcImm (op : Byte) : Statement (.sbcImm op) := ⟨rfl, rfl, fun _ _ _ h => byte_of_bytes h ▸ rfl⟩
theorem nop : Statement .nop := ⟨rfl, rfl, fun _ _ _ _ => rfl⟩
theorem cpxAbs (addr : Word) : Statement (.cpxAbs addr) := ⟨rfl, rfl, fun _ _ _ h => word_of_bytes h ▸ rfl⟩
theorem sbcAbs (addr : Word) : Statement (.sbcAbs addr) := ⟨rfl, rfl, fun _ _ _ h => word_of_bytes h ▸ rfl⟩
theorem incAbs (addr : Word) : Statement (.incAbs addr) := ⟨rfl, rfl, fun _ _ _ h => word_of_bytes h ▸ rfl⟩
theorem beq (offset : Int) : Statement (.beq offset) :=
  ⟨rfl, rfl, fun w _ _ h => offset_of_bytes w h ▸ rfl⟩
theorem sbcIzy (op : Byte) : Statement (.sbcIzy op) := ⟨rfl, rfl, fun _ _ _ h => byte_of_bytes h ▸ rfl⟩
theorem sbcZpx (op : Byte) : Statement (.sbcZpx op) := ⟨rfl, rfl, fun _ _ _ h => byte_of_bytes h ▸ rfl⟩
theorem incZpx (op : Byte) : Statement (.incZpx op) := ⟨rfl, rfl, fun _ _ _ h => byte_of_bytes h ▸ rfl⟩
theorem sed : Statement .sed := ⟨rfl, rfl, fun _ _ _ _ => rfl⟩
theorem sbcAbsy (addr : Word) : Statement (.sbcAbsy addr) := ⟨rfl, rfl, fun _ _ _ h => word_of_bytes h ▸ rfl⟩
theorem sbcAbsx (addr : Word) : Statement (.sbcAbsx addr) := ⟨rfl, rfl, fun _ _ _ h => word_of_bytes h ▸ rfl⟩
theorem incAbsx (addr : Word) : Statement (.incAbsx addr) := ⟨rfl, rfl, fun _ _ _ h => word_of_bytes h ▸ rfl⟩

end TableRow

end Sys2Proof.Laws
end

