-- ==== Sys2Proof/Laws/Costs.lean ====
section
/-! SUPPORT. The cycles of an instruction against its row of the dispatch table, and the frame of the read class. -/

namespace Sys2Proof

/-- The modes that cross a page (R96). -/
def Operand.indexed16 (o : Operand) : Bool :=
  match o with
  | .absx _ | .absy _ | .izy _ => true
  | .imm _ | .zp _ | .zpx _ | .zpy _ | .abs _ | .izx _ => false

end Sys2Proof

namespace Sys2Proof.Machine

open Sys2Proof Sys2Proof.Laws

/-- The lemmas of `Laws/PerInstr.lean`, gathered. -/
theorem instr_tableRow (i : Instr) : TableRow.Statement i := by
  cases i with
  | brk => exact TableRow.brk
  | oraIzx op => exact TableRow.oraIzx op
  | oraZp op => exact TableRow.oraZp op
  | aslZp op => exact TableRow.aslZp op
  | php => exact TableRow.php
  | oraImm op => exact TableRow.oraImm op
  | aslAcc => exact TableRow.aslAcc
  | oraAbs addr => exact TableRow.oraAbs addr
  | aslAbs addr => exact TableRow.aslAbs addr
  | bpl offset => exact TableRow.bpl offset
  | oraIzy op => exact TableRow.oraIzy op
  | oraZpx op => exact TableRow.oraZpx op
  | aslZpx op => exact TableRow.aslZpx op
  | clc => exact TableRow.clc
  | oraAbsy addr => exact TableRow.oraAbsy addr
  | oraAbsx addr => exact TableRow.oraAbsx addr
  | aslAbsx addr => exact TableRow.aslAbsx addr
  | jsr addr => exact TableRow.jsr addr
  | andIzx op => exact TableRow.andIzx op
  | bitZp op => exact TableRow.bitZp op
  | andZp op => exact TableRow.andZp op
  | rolZp op => exact TableRow.rolZp op
  | plp => exact TableRow.plp
  | andImm op => exact TableRow.andImm op
  | rolAcc => exact TableRow.rolAcc
  | bitAbs addr => exact TableRow.bitAbs addr
  | andAbs addr => exact TableRow.andAbs addr
  | rolAbs addr => exact TableRow.rolAbs addr
  | bmi offset => exact TableRow.bmi offset
  | andIzy op => exact TableRow.andIzy op
  | andZpx op => exact TableRow.andZpx op
  | rolZpx op => exact TableRow.rolZpx op
  | sec => exact TableRow.sec
  | andAbsy addr => exact TableRow.andAbsy addr
  | andAbsx addr => exact TableRow.andAbsx addr
  | rolAbsx addr => exact TableRow.rolAbsx addr
  | rti => exact TableRow.rti
  | eorIzx op => exact TableRow.eorIzx op
  | eorZp op => exact TableRow.eorZp op
  | lsrZp op => exact TableRow.lsrZp op
  | pha => exact TableRow.pha
  | eorImm op => exact TableRow.eorImm op
  | lsrAcc => exact TableRow.lsrAcc
  | jmpAbs addr => exact TableRow.jmpAbs addr
  | eorAbs addr => exact TableRow.eorAbs addr
  | lsrAbs addr => exact TableRow.lsrAbs addr
  | bvc offset => exact TableRow.bvc offset
  | eorIzy op => exact TableRow.eorIzy op
  | eorZpx op => exact TableRow.eorZpx op
  | lsrZpx op => exact TableRow.lsrZpx op
  | cli => exact TableRow.cli
  | eorAbsy addr => exact TableRow.eorAbsy addr
  | eorAbsx addr => exact TableRow.eorAbsx addr
  | lsrAbsx addr => exact TableRow.lsrAbsx addr
  | rts => exact TableRow.rts
  | adcIzx op => exact TableRow.adcIzx op
  | adcZp op => exact TableRow.adcZp op
  | rorZp op => exact TableRow.rorZp op
  | pla => exact TableRow.pla
  | adcImm op => exact TableRow.adcImm op
  | rorAcc => exact TableRow.rorAcc
  | jmpInd addr => exact TableRow.jmpInd addr
  | adcAbs addr => exact TableRow.adcAbs addr
  | rorAbs addr => exact TableRow.rorAbs addr
  | bvs offset => exact TableRow.bvs offset
  | adcIzy op => exact TableRow.adcIzy op
  | adcZpx op => exact TableRow.adcZpx op
  | rorZpx op => exact TableRow.rorZpx op
  | sei => exact TableRow.sei
  | adcAbsy addr => exact TableRow.adcAbsy addr
  | adcAbsx addr => exact TableRow.adcAbsx addr
  | rorAbsx addr => exact TableRow.rorAbsx addr
  | staIzx op => exact TableRow.staIzx op
  | styZp op => exact TableRow.styZp op
  | staZp op => exact TableRow.staZp op
  | stxZp op => exact TableRow.stxZp op
  | dey => exact TableRow.dey
  | txa => exact TableRow.txa
  | styAbs addr => exact TableRow.styAbs addr
  | staAbs addr => exact TableRow.staAbs addr
  | stxAbs addr => exact TableRow.stxAbs addr
  | bcc offset => exact TableRow.bcc offset
  | staIzy op => exact TableRow.staIzy op
  | styZpx op => exact TableRow.styZpx op
  | staZpx op => exact TableRow.staZpx op
  | stxZpy op => exact TableRow.stxZpy op
  | tya => exact TableRow.tya
  | staAbsy addr => exact TableRow.staAbsy addr
  | txs => exact TableRow.txs
  | staAbsx addr => exact TableRow.staAbsx addr
  | ldyImm op => exact TableRow.ldyImm op
  | ldaIzx op => exact TableRow.ldaIzx op
  | ldxImm op => exact TableRow.ldxImm op
  | ldyZp op => exact TableRow.ldyZp op
  | ldaZp op => exact TableRow.ldaZp op
  | ldxZp op => exact TableRow.ldxZp op
  | tay => exact TableRow.tay
  | ldaImm op => exact TableRow.ldaImm op
  | tax => exact TableRow.tax
  | ldyAbs addr => exact TableRow.ldyAbs addr
  | ldaAbs addr => exact TableRow.ldaAbs addr
  | ldxAbs addr => exact TableRow.ldxAbs addr
  | bcs offset => exact TableRow.bcs offset
  | ldaIzy op => exact TableRow.ldaIzy op
  | ldyZpx op => exact TableRow.ldyZpx op
  | ldaZpx op => exact TableRow.ldaZpx op
  | ldxZpy op => exact TableRow.ldxZpy op
  | clv => exact TableRow.clv
  | ldaAbsy addr => exact TableRow.ldaAbsy addr
  | tsx => exact TableRow.tsx
  | ldyAbsx addr => exact TableRow.ldyAbsx addr
  | ldaAbsx addr => exact TableRow.ldaAbsx addr
  | ldxAbsy addr => exact TableRow.ldxAbsy addr
  | cpyImm op => exact TableRow.cpyImm op
  | cmpIzx op => exact TableRow.cmpIzx op
  | cpyZp op => exact TableRow.cpyZp op
  | cmpZp op => exact TableRow.cmpZp op
  | decZp op => exact TableRow.decZp op
  | iny => exact TableRow.iny
  | cmpImm op => exact TableRow.cmpImm op
  | dex => exact TableRow.dex
  | cpyAbs addr => exact TableRow.cpyAbs addr
  | cmpAbs addr => exact TableRow.cmpAbs addr
  | decAbs addr => exact TableRow.decAbs addr
  | bne offset => exact TableRow.bne offset
  | cmpIzy op => exact TableRow.cmpIzy op
  | cmpZpx op => exact TableRow.cmpZpx op
  | decZpx op => exact TableRow.decZpx op
  | cld => exact TableRow.cld
  | cmpAbsy addr => exact TableRow.cmpAbsy addr
  | cmpAbsx addr => exact TableRow.cmpAbsx addr
  | decAbsx addr => exact TableRow.decAbsx addr
  | cpxImm op => exact TableRow.cpxImm op
  | sbcIzx op => exact TableRow.sbcIzx op
  | cpxZp op => exact TableRow.cpxZp op
  | sbcZp op => exact TableRow.sbcZp op
  | incZp op => exact TableRow.incZp op
  | inx => exact TableRow.inx
  | sbcImm op => exact TableRow.sbcImm op
  | nop => exact TableRow.nop
  | cpxAbs addr => exact TableRow.cpxAbs addr
  | sbcAbs addr => exact TableRow.sbcAbs addr
  | incAbs addr => exact TableRow.incAbs addr
  | beq offset => exact TableRow.beq offset
  | sbcIzy op => exact TableRow.sbcIzy op
  | sbcZpx op => exact TableRow.sbcZpx op
  | incZpx op => exact TableRow.incZpx op
  | sed => exact TableRow.sed
  | sbcAbsy addr => exact TableRow.sbcAbsy addr
  | sbcAbsx addr => exact TableRow.sbcAbsx addr
  | incAbsx addr => exact TableRow.incAbsx addr

theorem length_indexCycles (cls : AccessClass) (crossed : Bool) :
    (indexCycles cls crossed).length = if cls ≠ .read ∨ crossed = true then 1 else 0 := by
  cases cls <;> cases crossed <;> rfl

/-- The resolver's cycles against the base count of the mode and class. -/
theorem length_resolveCycles {o : Operand} (cls : AccessClass) (s : State) (h : ∀ op, o ≠ .imm op) :
    2 + (resolveCycles o cls s).length + (if cls = .rmw then 2 else 0) =
      operandCycles o cls + (if cls = .read ∧ o.indexed16 = true ∧ (resolve o cls s).crossed = true then 1 else 0) := by
  cases o with
  | imm op => exact absurd rfl (h op)
  | _ =>
    cases cls <;> simp [resolveCycles, operandCycles, length_indexCycles, Operand.indexed16] <;> (split <;> omega)

theorem pageCrossAdds_of_mem {i : Instr} {o : Operand} {cls : AccessClass} (hf : i.form = .mem o)
    (hm : accessClassOf i.mnemonic = some cls) :
    Instr.pageCrossAdds i = decide (cls = .read ∧ o.indexed16 = true) := by
  simp only [Instr.pageCrossAdds, (instr_tableRow i).1, Option.any_some, crossAdds, hf, hm]
  cases o <;> cases cls <;> rfl

/-- An instruction that performs the resolver's cycles and then those of its access class takes the cycles of its row and its
page-cross penalty (R96, R266). -/
theorem costs_of_mem {i : Instr} {o : Operand} {cls : AccessClass} {s t : State} {cs : List BusCycle}
    (hf : i.form = .mem o) (hm : accessClassOf i.mnemonic = some cls) (hi : ∀ op, o = .imm op → cls = .read)
    (h : Performed (resolveCycles o cls s ++ cs) s t) (hl : cs.length = if cls = .rmw then 3 else 1) :
    Costs i s t := by
  refine ⟨_, _, (instr_tableRow i).1, h, ?_⟩
  simp only [Instr.penalty, pageCrossAdds_of_mem hf hm, cyclesOf, hf, hm, List.length_append, hl]
  by_cases hh : ∃ op, o = .imm op
  · obtain ⟨op, rfl⟩ := hh
    cases hi op rfl
    rfl
  · have k := length_resolveCycles cls s (fun op e => hh ⟨op, e⟩)
    rw [(resolve_ea_cls o .read cls s).2]
    simp only [Bool.and_eq_true, decide_eq_true_eq, and_assoc]
    by_cases hc : cls = .read ∧ o.indexed16 = true ∧ (resolve o cls s).crossed = true
    · rw [if_pos hc] at k ⊢
      simp [hc.1] at k ⊢
      omega
    · rw [if_neg hc] at k ⊢
      cases cls <;> simp at k ⊢ <;> omega

/-- The frame of every read-class instruction: whatever it makes of A, X, Y and P (R80, R95). -/
theorem readsOperand_of_read {i : Instr} {o : Operand} (s : State) (hf : i.form = .mem o)
    (hm : accessClassOf i.mnemonic = some .read) (a x y : Byte) (p : Flags) :
    ReadsOperand i o s { (readOperand o s).2 with a := a, x := x, y := y, p := p } := by
  have h : Performed _ s { (readOperand o s).2 with a := a, x := x, y := y, p := p } := performed_readOperand o s
  exact ⟨by simp, by simp, h.memoryUnchanged (readOperandCycles_no_write o s), ⟨by simp, by simp, by simp, h.platform,
    by simp⟩, costs_of_mem hf hm (fun _ _ => rfl) h rfl, readOperand_trace o s⟩

/-- `SetZN` as a frame over the flags (R30). -/
theorem onlyZN_setZN (p : Flags) (v : Byte) : OnlyZN v p (p.setZN v) := by
  refine ⟨⟨?_, bit7_eq v⟩, rfl, rfl, rfl, rfl⟩
  simp only [Flags.setZN]
  rw [Bool.eq_iff_iff]
  simp [BitVec.toNat_eq]

end Sys2Proof.Machine
end

