-- ==== Sys2Proof/Laws/Flags.lean ====
section
/-! SUPPORT. The flag computations in the form the claims use. -/

namespace Sys2Proof.Machine

open Sys2Proof

/-- `SetZN` as a record update (R30). -/
theorem setZN_eq (p : Flags) (v : Byte) :
    p.setZN v = { p with z := decide (v.toNat = 0), n := decide (128 ≤ v.toNat) } := by
  obtain ⟨⟨h1, h2⟩, -⟩ := onlyZN_setZN p v
  rw [← h1, ← h2]
  rfl

/-- The mask of a byte with `$80` tests its bit 7. -/
theorem and_0x80_ne_zero : ∀ x : Byte, ((x &&& 0x80#8) != 0x00#8) = bit7 x := by decide

/-- Overflow from the sign bits (R140): the operands agree and the result does not. -/
theorem overflowBit_eq (a m r : Byte) : overflowBit a m r = ((bit7 a ^^ bit7 r) && (bit7 m ^^ bit7 r)) := by
  unfold overflowBit
  rw [and_0x80_ne_zero]
  simp [bit7]

theorem carryNat_eq (c : Bool) : carryNat c = c.toNat := by cases c <;> rfl

/-- Bit 7 of a number's low byte. -/
theorem bit7_ofNat (n : Nat) : bit7 (BitVec.ofNat 8 n) = n.testBit 7 := by
  unfold bit7
  rw [BitVec.getLsbD_ofNat]
  simp

end Sys2Proof.Machine
end

