-- ==== Sys2Proof/Laws/Step.lean ====
section
/-! SUPPORT. What a step and a cycle request can do, case by case; the bytes an instruction is decoded from. -/

namespace Sys2Proof

/-- The opcode byte and the operand bytes of the instruction that three bytes select (R70 to R72). -/
theorem instrOf_bytes {opc lo hi : Byte} {i : Instr} (h : instrOf opc lo hi = some i) :
    i.opcode = opc ∧ i.form.bytes = [lo, hi].take i.form.mode.operandLength ∧ i.wellFormed = true := by
  have hb : (lo.toInt == lo.toInt) = true := by simp
  have h1 : -128 ≤ lo.toInt := by have := BitVec.le_toInt lo; simpa using this
  have h2 : lo.toInt ≤ 127 := by have := BitVec.toInt_lt (x := lo); simp at this; omega
  unfold instrOf at h
  split at h <;> first
    | cases h
      refine ⟨?_, ?_, ?_⟩
      · rename_i he
        exact (BitVec.eq_of_toNat_eq (he.trans rfl)).symm
      · simp [Instr.form, Form.bytes, Form.mode, Operand.bytes, Operand.mode, Mode.operandLength]
      · simp [Instr.wellFormed, branchOffsetFits, h1, h2]
    | cases h

end Sys2Proof

namespace Sys2Proof.Machine

open Sys2Proof

/-- What a completed step has done: at an instruction boundary, one interrupt entry or one instruction (R230). -/
theorem step_cases {s t : State} (h : step s = .next t) :
    s.phase = .boundary ∧
    ((∃ source, sampledInterrupt s.begin = some source ∧ t = serviceInterrupt source s.begin) ∨
      (sampledInterrupt s.begin = none ∧
        ∃ i, fetchInstr s.begin = .ok i ∧ exec i (opcodeFetched s.begin) = .next t)) := by
  unfold step at h
  split at h
  · cases h
  · cases h
  · rename_i hp
    refine ⟨hp, ?_⟩
    unfold stepAtBoundary at h
    split at h
    · rename_i source hs
      cases h
      exact .inl ⟨source, hs, rfl⟩
    · rename_i hs
      split at h
      · rename_i i hi
        exact .inr ⟨hs, i, hi, h⟩
      · cases h

/-- The interrupt sampled does not depend on the record of the last request. -/
theorem sampledInterrupt_begin (s : State) :
    sampledInterrupt s.begin =
      if s.pendingNmi then some .nmi else if s.pendingIrq && !s.p.i then some .irq else none := rfl

/-- A fetched instruction is well formed, its opcode byte is the one at PC, and its operand bytes are those that the fetches
after the opcode fetch return. -/
theorem fetchInstr_ok {s : State} {i : Instr} (h : fetchInstr s = .ok i) :
    i.opcode = opcodeByte s ∧ FetchesAre i.form.bytes (opcodeFetched s) ∧ i.wellFormed = true := by
  have h' : instrOf (opcodeByte s) (firstOperandByte s) (secondOperandByte s) = some i := by
    simp only [fetchInstr, decode, List.getD_cons_zero, List.getD_cons_succ] at h
    split at h
    · rename_i heq
      split at heq
      · cases heq
      · split at heq
        · cases heq; cases h; assumption
        · cases heq
    · cases h
  obtain ⟨h1, h2, h3⟩ := instrOf_bytes h'
  refine ⟨h1, ?_, h3⟩
  rw [h2]
  have key : FetchesAre [firstOperandByte s, secondOperandByte s] (opcodeFetched s) := by
    refine ⟨rfl, ?_, trivial⟩
    simp [secondOperandByte, opcodeFetched, BitVec.add_assoc]
  rcases i.form.mode with _ | _ | _ | _ | _ | _ | _ | _ | _ | _ | _ | _ | _ <;>
    simp only [Mode.operandLength, List.take] <;> trivial

/-- Three bytes are refused only for their opcode byte (R76). -/
theorem fetchInstr_error {s : State} {r : Reject} (h : fetchInstr s = .error r) :
    instrOf (opcodeByte s) (firstOperandByte s) (secondOperandByte s) = none := by
  simp only [fetchInstr, decode, List.getD_cons_zero, List.getD_cons_succ] at h
  split at h
  · cases h
  · rename_i heq
    split at heq
    · assumption
    · rename_i i _
      rcases hm : i.form.mode <;> simp [hm, Mode.operandLength] at heq

/-- Only the dispatcher faults (R241). -/
theorem exec_ne_fault (i : Instr) (s : State) (r : Fault) : exec i s ≠ .fault r := by
  have ⟨t, ht⟩ : ∃ t, exec i s = .next t := by cases i <;> exact ⟨_, rfl⟩
  rw [ht]
  exact fun h => by cases h

/-- What a faulting step has done: at an instruction boundary with no interrupt to take, the one read of an illegal opcode
byte (R239). -/
theorem step_fault {s : State} {r : Fault} (h : step s = .fault r) :
    s.phase = .boundary ∧ sampledInterrupt s.begin = none ∧
      instrOf (opcodeByte s) (firstOperandByte s.begin) (secondOperandByte s.begin) = none ∧
      r = .illegalOpcode (opcodeByte s) s.pc (opcodeRead s.begin) := by
  unfold step at h
  split at h
  · cases h
  · cases h
  · rename_i hp
    unfold stepAtBoundary at h
    split at h
    · cases h
    · rename_i hs
      split at h
      · exact absurd h (exec_ne_fault _ _ _)
      · rename_i he
        cases h
        exact ⟨hp, hs, fetchInstr_error he, rfl⟩

/-- The state a faulting step leaves (R239). -/
theorem opcodeRead_begin (s : State) :
    opcodeRead s.begin =
      { s with
        bus := s.bus.perform (.read s.pc (s.bus.value s.pc))
        trace := [.read s.pc (s.bus.value s.pc)]
        result := none } := rfl

/-- What a cycle request does: it continues the instruction in flight, or begins the one the step would run (R245). -/
theorem stepCycle_cases {s u : State} (h : stepCycle s = .next u) :
    (∃ f, s.phase = .inFlight f ∧ u = continueFlight f s) ∨
    (∃ t, s.phase = .boundary ∧ step s = .next t ∧
      u = continueFlight ⟨t.trace, t.regs, t.result⟩ (s.setPendingNmi t.pendingNmi)) := by
  unfold stepCycle at h
  split at h
  · rename_i f hf; cases h; exact .inl ⟨f, hf, rfl⟩
  · cases h
  · rename_i hp
    split at h
    · rename_i t ht; cases h; exact .inr ⟨t, hp, ht, rfl⟩
    · cases h
    · cases h

end Sys2Proof.Machine
end

