-- ==== Sys2Proof/Tests/Slice0.lean ====
section
/-! SUPPORT. Tests of the model. Every expected result is the spec's: the ill-formed and encoded words from 30_encoding.md,
the function and step vectors from 95_test_vectors.md section 2 (their ids stand in the names or comments), the document's
scenarios of section 1.3. Last, a named witness for the hypotheses of every obligation. -/

namespace Sys2Proof.Tests

open Sys2Proof Sys2Proof.Machine

/-! WellFormed (R72): a branch offset fits its byte. -/

theorem test_offset_above_range_is_ill_formed : (Instr.bne 128).wellFormed = false := by decide
theorem test_offset_below_range_is_ill_formed : (Instr.bpl (-129)).wellFormed = false := by decide
theorem test_offset_at_the_bounds_is_well_formed :
    ((Instr.bne 127).wellFormed && (Instr.beq (-128)).wellFormed) = true := by decide

/-! Decoding: each row's bytes, written out from the tables of R70, R72 and R74, decode to the instruction they stand for. -/

/-- The bytes decode to exactly this instruction. -/
def reads (row : List Byte × Instr) : Bool := decide (decode row.1 = .ok (row.2, []))

theorem test_decode_row_0x : [
    ([0x00#8], .brk),
    ([0x01#8, 0x9C#8], .oraIzx 0x9C#8),
    ([0x05#8, 0x9C#8], .oraZp 0x9C#8),
    ([0x06#8, 0x9C#8], .aslZp 0x9C#8),
    ([0x08#8], .php),
    ([0x09#8, 0x9C#8], .oraImm 0x9C#8),
    ([0x0A#8], .aslAcc),
    ([0x0D#8, 0x34#8, 0xA2#8], .oraAbs 0xA234#16),
    ([0x0E#8, 0x34#8, 0xA2#8], .aslAbs 0xA234#16)].all reads = true := by decide

theorem test_decode_row_1x : [
    ([0x10#8, 0xFA#8], .bpl (-6)),
    ([0x11#8, 0x9C#8], .oraIzy 0x9C#8),
    ([0x15#8, 0x9C#8], .oraZpx 0x9C#8),
    ([0x16#8, 0x9C#8], .aslZpx 0x9C#8),
    ([0x18#8], .clc),
    ([0x19#8, 0x34#8, 0xA2#8], .oraAbsy 0xA234#16),
    ([0x1D#8, 0x34#8, 0xA2#8], .oraAbsx 0xA234#16),
    ([0x1E#8, 0x34#8, 0xA2#8], .aslAbsx 0xA234#16)].all reads = true := by decide

theorem test_decode_row_2x : [
    ([0x20#8, 0x34#8, 0xA2#8], .jsr 0xA234#16),
    ([0x21#8, 0x9C#8], .andIzx 0x9C#8),
    ([0x24#8, 0x9C#8], .bitZp 0x9C#8),
    ([0x25#8, 0x9C#8], .andZp 0x9C#8),
    ([0x26#8, 0x9C#8], .rolZp 0x9C#8),
    ([0x28#8], .plp),
    ([0x29#8, 0x9C#8], .andImm 0x9C#8),
    ([0x2A#8], .rolAcc),
    ([0x2C#8, 0x34#8, 0xA2#8], .bitAbs 0xA234#16),
    ([0x2D#8, 0x34#8, 0xA2#8], .andAbs 0xA234#16),
    ([0x2E#8, 0x34#8, 0xA2#8], .rolAbs 0xA234#16)].all reads = true := by decide

theorem test_decode_row_3x : [
    ([0x30#8, 0xFA#8], .bmi (-6)),
    ([0x31#8, 0x9C#8], .andIzy 0x9C#8),
    ([0x35#8, 0x9C#8], .andZpx 0x9C#8),
    ([0x36#8, 0x9C#8], .rolZpx 0x9C#8),
    ([0x38#8], .sec),
    ([0x39#8, 0x34#8, 0xA2#8], .andAbsy 0xA234#16),
    ([0x3D#8, 0x34#8, 0xA2#8], .andAbsx 0xA234#16),
    ([0x3E#8, 0x34#8, 0xA2#8], .rolAbsx 0xA234#16)].all reads = true := by decide

theorem test_decode_row_4x : [
    ([0x40#8], .rti),
    ([0x41#8, 0x9C#8], .eorIzx 0x9C#8),
    ([0x45#8, 0x9C#8], .eorZp 0x9C#8),
    ([0x46#8, 0x9C#8], .lsrZp 0x9C#8),
    ([0x48#8], .pha),
    ([0x49#8, 0x9C#8], .eorImm 0x9C#8),
    ([0x4A#8], .lsrAcc),
    ([0x4C#8, 0x34#8, 0xA2#8], .jmpAbs 0xA234#16),
    ([0x4D#8, 0x34#8, 0xA2#8], .eorAbs 0xA234#16),
    ([0x4E#8, 0x34#8, 0xA2#8], .lsrAbs 0xA234#16)].all reads = true := by decide

theorem test_decode_row_5x : [
    ([0x50#8, 0xFA#8], .bvc (-6)),
    ([0x51#8, 0x9C#8], .eorIzy 0x9C#8),
    ([0x55#8, 0x9C#8], .eorZpx 0x9C#8),
    ([0x56#8, 0x9C#8], .lsrZpx 0x9C#8),
    ([0x58#8], .cli),
    ([0x59#8, 0x34#8, 0xA2#8], .eorAbsy 0xA234#16),
    ([0x5D#8, 0x34#8, 0xA2#8], .eorAbsx 0xA234#16),
    ([0x5E#8, 0x34#8, 0xA2#8], .lsrAbsx 0xA234#16)].all reads = true := by decide

theorem test_decode_row_6x : [
    ([0x60#8], .rts),
    ([0x61#8, 0x9C#8], .adcIzx 0x9C#8),
    ([0x65#8, 0x9C#8], .adcZp 0x9C#8),
    ([0x66#8, 0x9C#8], .rorZp 0x9C#8),
    ([0x68#8], .pla),
    ([0x69#8, 0x9C#8], .adcImm 0x9C#8),
    ([0x6A#8], .rorAcc),
    ([0x6C#8, 0x34#8, 0xA2#8], .jmpInd 0xA234#16),
    ([0x6D#8, 0x34#8, 0xA2#8], .adcAbs 0xA234#16),
    ([0x6E#8, 0x34#8, 0xA2#8], .rorAbs 0xA234#16)].all reads = true := by decide

theorem test_decode_row_7x : [
    ([0x70#8, 0xFA#8], .bvs (-6)),
    ([0x71#8, 0x9C#8], .adcIzy 0x9C#8),
    ([0x75#8, 0x9C#8], .adcZpx 0x9C#8),
    ([0x76#8, 0x9C#8], .rorZpx 0x9C#8),
    ([0x78#8], .sei),
    ([0x79#8, 0x34#8, 0xA2#8], .adcAbsy 0xA234#16),
    ([0x7D#8, 0x34#8, 0xA2#8], .adcAbsx 0xA234#16),
    ([0x7E#8, 0x34#8, 0xA2#8], .rorAbsx 0xA234#16)].all reads = true := by decide

theorem test_decode_row_8x : [
    ([0x81#8, 0x9C#8], .staIzx 0x9C#8),
    ([0x84#8, 0x9C#8], .styZp 0x9C#8),
    ([0x85#8, 0x9C#8], .staZp 0x9C#8),
    ([0x86#8, 0x9C#8], .stxZp 0x9C#8),
    ([0x88#8], .dey),
    ([0x8A#8], .txa),
    ([0x8C#8, 0x34#8, 0xA2#8], .styAbs 0xA234#16),
    ([0x8D#8, 0x34#8, 0xA2#8], .staAbs 0xA234#16),
    ([0x8E#8, 0x34#8, 0xA2#8], .stxAbs 0xA234#16)].all reads = true := by decide

theorem test_decode_row_9x : [
    ([0x90#8, 0xFA#8], .bcc (-6)),
    ([0x91#8, 0x9C#8], .staIzy 0x9C#8),
    ([0x94#8, 0x9C#8], .styZpx 0x9C#8),
    ([0x95#8, 0x9C#8], .staZpx 0x9C#8),
    ([0x96#8, 0x9C#8], .stxZpy 0x9C#8),
    ([0x98#8], .tya),
    ([0x99#8, 0x34#8, 0xA2#8], .staAbsy 0xA234#16),
    ([0x9A#8], .txs),
    ([0x9D#8, 0x34#8, 0xA2#8], .staAbsx 0xA234#16)].all reads = true := by decide

theorem test_decode_row_ax : [
    ([0xA0#8, 0x9C#8], .ldyImm 0x9C#8),
    ([0xA1#8, 0x9C#8], .ldaIzx 0x9C#8),
    ([0xA2#8, 0x9C#8], .ldxImm 0x9C#8),
    ([0xA4#8, 0x9C#8], .ldyZp 0x9C#8),
    ([0xA5#8, 0x9C#8], .ldaZp 0x9C#8),
    ([0xA6#8, 0x9C#8], .ldxZp 0x9C#8),
    ([0xA8#8], .tay),
    ([0xA9#8, 0x9C#8], .ldaImm 0x9C#8),
    ([0xAA#8], .tax),
    ([0xAC#8, 0x34#8, 0xA2#8], .ldyAbs 0xA234#16),
    ([0xAD#8, 0x34#8, 0xA2#8], .ldaAbs 0xA234#16),
    ([0xAE#8, 0x34#8, 0xA2#8], .ldxAbs 0xA234#16)].all reads = true := by decide

theorem test_decode_row_bx : [
    ([0xB0#8, 0xFA#8], .bcs (-6)),
    ([0xB1#8, 0x9C#8], .ldaIzy 0x9C#8),
    ([0xB4#8, 0x9C#8], .ldyZpx 0x9C#8),
    ([0xB5#8, 0x9C#8], .ldaZpx 0x9C#8),
    ([0xB6#8, 0x9C#8], .ldxZpy 0x9C#8),
    ([0xB8#8], .clv),
    ([0xB9#8, 0x34#8, 0xA2#8], .ldaAbsy 0xA234#16),
    ([0xBA#8], .tsx),
    ([0xBC#8, 0x34#8, 0xA2#8], .ldyAbsx 0xA234#16),
    ([0xBD#8, 0x34#8, 0xA2#8], .ldaAbsx 0xA234#16),
    ([0xBE#8, 0x34#8, 0xA2#8], .ldxAbsy 0xA234#16)].all reads = true := by decide

theorem test_decode_row_cx : [
    ([0xC0#8, 0x9C#8], .cpyImm 0x9C#8),
    ([0xC1#8, 0x9C#8], .cmpIzx 0x9C#8),
    ([0xC4#8, 0x9C#8], .cpyZp 0x9C#8),
    ([0xC5#8, 0x9C#8], .cmpZp 0x9C#8),
    ([0xC6#8, 0x9C#8], .decZp 0x9C#8),
    ([0xC8#8], .iny),
    ([0xC9#8, 0x9C#8], .cmpImm 0x9C#8),
    ([0xCA#8], .dex),
    ([0xCC#8, 0x34#8, 0xA2#8], .cpyAbs 0xA234#16),
    ([0xCD#8, 0x34#8, 0xA2#8], .cmpAbs 0xA234#16),
    ([0xCE#8, 0x34#8, 0xA2#8], .decAbs 0xA234#16)].all reads = true := by decide

theorem test_decode_row_dx : [
    ([0xD0#8, 0xFA#8], .bne (-6)),
    ([0xD1#8, 0x9C#8], .cmpIzy 0x9C#8),
    ([0xD5#8, 0x9C#8], .cmpZpx 0x9C#8),
    ([0xD6#8, 0x9C#8], .decZpx 0x9C#8),
    ([0xD8#8], .cld),
    ([0xD9#8, 0x34#8, 0xA2#8], .cmpAbsy 0xA234#16),
    ([0xDD#8, 0x34#8, 0xA2#8], .cmpAbsx 0xA234#16),
    ([0xDE#8, 0x34#8, 0xA2#8], .decAbsx 0xA234#16)].all reads = true := by decide

theorem test_decode_row_ex : [
    ([0xE0#8, 0x9C#8], .cpxImm 0x9C#8),
    ([0xE1#8, 0x9C#8], .sbcIzx 0x9C#8),
    ([0xE4#8, 0x9C#8], .cpxZp 0x9C#8),
    ([0xE5#8, 0x9C#8], .sbcZp 0x9C#8),
    ([0xE6#8, 0x9C#8], .incZp 0x9C#8),
    ([0xE8#8], .inx),
    ([0xE9#8, 0x9C#8], .sbcImm 0x9C#8),
    ([0xEA#8], .nop),
    ([0xEC#8, 0x34#8, 0xA2#8], .cpxAbs 0xA234#16),
    ([0xED#8, 0x34#8, 0xA2#8], .sbcAbs 0xA234#16),
    ([0xEE#8, 0x34#8, 0xA2#8], .incAbs 0xA234#16)].all reads = true := by decide

theorem test_decode_row_fx : [
    ([0xF0#8, 0xFA#8], .beq (-6)),
    ([0xF1#8, 0x9C#8], .sbcIzy 0x9C#8),
    ([0xF5#8, 0x9C#8], .sbcZpx 0x9C#8),
    ([0xF6#8, 0x9C#8], .incZpx 0x9C#8),
    ([0xF8#8], .sed),
    ([0xF9#8, 0x34#8, 0xA2#8], .sbcAbsy 0xA234#16),
    ([0xFD#8, 0x34#8, 0xA2#8], .sbcAbsx 0xA234#16),
    ([0xFE#8, 0x34#8, 0xA2#8], .incAbsx 0xA234#16)].all reads = true := by decide

/-- The 105 illegal bytes, as R76 lists them. -/
def illegalBytes : List Byte :=
  [0x02#8, 0x03#8, 0x04#8, 0x07#8, 0x0B#8, 0x0C#8, 0x0F#8, 0x12#8, 0x13#8, 0x14#8, 0x17#8, 0x1A#8, 0x1B#8,
   0x1C#8, 0x1F#8, 0x22#8, 0x23#8, 0x27#8, 0x2B#8, 0x2F#8, 0x32#8, 0x33#8, 0x34#8, 0x37#8, 0x3A#8, 0x3B#8,
   0x3C#8, 0x3F#8, 0x42#8, 0x43#8, 0x44#8, 0x47#8, 0x4B#8, 0x4F#8, 0x52#8, 0x53#8, 0x54#8, 0x57#8, 0x5A#8,
   0x5B#8, 0x5C#8, 0x5F#8, 0x62#8, 0x63#8, 0x64#8, 0x67#8, 0x6B#8, 0x6F#8, 0x72#8, 0x73#8, 0x74#8, 0x77#8,
   0x7A#8, 0x7B#8, 0x7C#8, 0x7F#8, 0x80#8, 0x82#8, 0x83#8, 0x87#8, 0x89#8, 0x8B#8, 0x8F#8, 0x92#8, 0x93#8,
   0x97#8, 0x9B#8, 0x9C#8, 0x9E#8, 0x9F#8, 0xA3#8, 0xA7#8, 0xAB#8, 0xAF#8, 0xB2#8, 0xB3#8, 0xB7#8, 0xBB#8,
   0xBF#8, 0xC2#8, 0xC3#8, 0xC7#8, 0xCB#8, 0xCF#8, 0xD2#8, 0xD3#8, 0xD4#8, 0xD7#8, 0xDA#8, 0xDB#8, 0xDC#8,
   0xDF#8, 0xE2#8, 0xE3#8, 0xE7#8, 0xEB#8, 0xEF#8, 0xF2#8, 0xF3#8, 0xF4#8, 0xF7#8, 0xFA#8, 0xFB#8, 0xFC#8,
   0xFF#8]

theorem test_illegal_bytes_are_refused :
    illegalBytes.all (fun b => decide (decode [b, 0, 0] = .error (.illegalOpcode b))) = true := by decide

theorem test_truncated_instruction_is_refused : decode [0xAD#8, 0x34#8] = .error .truncated := by decide

theorem test_table_word_is_little_endian : decodeTableWord 24 0x1234AD = some (.ldaAbs 0x1234#16) := by decide
theorem test_table_word_shorter_than_the_instruction : decodeTableWord 8 0xAD = some (.ldaAbs 0#16) := by decide

/-! Function vectors of 95_test_vectors.md section 2.3: A, M, carry in; A out, N, V, Z, C. -/

/-- A row of a function vector table. -/
structure AluVec where
  a : Nat
  m : Nat
  cin : Bool
  out : Nat
  n : Bool
  v : Bool
  z : Bool
  c : Bool

/-- The function gives the row's results, and leaves D and I. -/
def AluVec.passes (f : Byte → Byte → Flags → Byte × Flags) (d : Bool) (w : AluVec) : Bool :=
  decide (f (BitVec.ofNat 8 w.a) (BitVec.ofNat 8 w.m) ⟨false, true, d, true, true, w.cin⟩ =
    (BitVec.ofNat 8 w.out, ⟨w.n, w.v, d, true, w.z, w.c⟩))

theorem test_adc_binary_AB1_to_AB14 : [
    ⟨0x50, 0x50, false, 0xA0, true, true, false, false⟩,
    ⟨0x01, 0x01, false, 0x02, false, false, false, false⟩,
    ⟨0x01, 0x01, true, 0x03, false, false, false, false⟩,
    ⟨0xFF, 0x01, false, 0x00, false, false, true, true⟩,
    ⟨0x7F, 0x01, false, 0x80, true, true, false, false⟩,
    ⟨0x80, 0x80, false, 0x00, false, true, true, true⟩,
    ⟨0xFF, 0xFF, true, 0xFF, true, false, false, true⟩,
    ⟨0x00, 0x00, false, 0x00, false, false, true, false⟩,
    ⟨0x80, 0xFF, false, 0x7F, false, true, false, true⟩,
    ⟨0x7F, 0x7F, true, 0xFF, true, true, false, false⟩,
    ⟨0x00, 0xFF, true, 0x00, false, false, true, true⟩,
    ⟨0x3F, 0x40, true, 0x80, true, true, false, false⟩,
    ⟨0xD0, 0x90, false, 0x60, false, true, false, true⟩,
    ⟨0x50, 0xD0, false, 0x20, false, false, false, true⟩].all (AluVec.passes adcResult false) = true := by decide

theorem test_sbc_binary_SB1_to_SB12 : [
    ⟨0x50, 0xF0, true, 0x60, false, false, false, false⟩,
    ⟨0x50, 0xB0, true, 0xA0, true, true, false, false⟩,
    ⟨0x00, 0x01, true, 0xFF, true, false, false, false⟩,
    ⟨0x80, 0x01, true, 0x7F, false, true, false, true⟩,
    ⟨0x40, 0x40, true, 0x00, false, false, true, true⟩,
    ⟨0x05, 0x03, false, 0x01, false, false, false, true⟩,
    ⟨0x00, 0x00, false, 0xFF, true, false, false, false⟩,
    ⟨0xFF, 0xFF, true, 0x00, false, false, true, true⟩,
    ⟨0x7F, 0xFF, true, 0x80, true, true, false, false⟩,
    ⟨0xD0, 0x70, true, 0x60, false, true, false, true⟩,
    ⟨0x50, 0x30, true, 0x20, false, false, false, true⟩,
    ⟨0x00, 0x80, true, 0x80, true, true, false, false⟩].all (AluVec.passes sbcResult false) = true := by decide

theorem test_adc_decimal_AD1_to_AD16 : [
    ⟨0x15, 0x27, false, 0x42, false, false, false, false⟩,
    ⟨0x58, 0x46, false, 0x04, true, true, false, true⟩,
    ⟨0x99, 0x01, false, 0x00, true, false, false, true⟩,
    ⟨0x79, 0x00, true, 0x80, true, true, false, false⟩,
    ⟨0x00, 0x00, false, 0x00, false, false, true, false⟩,
    ⟨0x09, 0x01, false, 0x10, false, false, false, false⟩,
    ⟨0x24, 0x56, false, 0x80, true, true, false, false⟩,
    ⟨0x49, 0x50, true, 0x00, true, true, false, true⟩,
    ⟨0x50, 0x50, false, 0x00, true, true, false, true⟩,
    ⟨0x99, 0x99, true, 0x99, false, true, false, true⟩,
    ⟨0x80, 0x80, false, 0x60, false, true, true, true⟩,
    ⟨0x0F, 0x0F, false, 0x14, false, false, false, false⟩,
    ⟨0x9A, 0x00, false, 0x00, true, false, false, true⟩,
    ⟨0xFF, 0xFF, true, 0x55, true, false, false, true⟩,
    ⟨0x12, 0x34, true, 0x47, false, false, false, false⟩,
    ⟨0x81, 0x92, false, 0x73, false, true, false, true⟩].all (AluVec.passes adcResult true) = true := by decide

theorem test_sbc_decimal_SD1_to_SD15 : [
    ⟨0x42, 0x27, true, 0x15, false, false, false, true⟩,
    ⟨0x00, 0x01, true, 0x99, true, false, false, false⟩,
    ⟨0x50, 0x25, true, 0x25, false, false, false, true⟩,
    ⟨0x50, 0x25, false, 0x24, false, false, false, true⟩,
    ⟨0x10, 0x01, true, 0x09, false, false, false, true⟩,
    ⟨0x00, 0x00, false, 0x99, true, false, false, false⟩,
    ⟨0x99, 0x99, true, 0x00, false, false, true, true⟩,
    ⟨0x46, 0x12, true, 0x34, false, false, false, true⟩,
    ⟨0x40, 0x13, true, 0x27, false, false, false, true⟩,
    ⟨0x32, 0x02, false, 0x29, false, false, false, true⟩,
    ⟨0x12, 0x21, true, 0x91, true, false, false, false⟩,
    ⟨0x21, 0x34, true, 0x87, true, false, false, false⟩,
    ⟨0x0A, 0x00, true, 0x0A, false, false, false, true⟩,
    ⟨0x20, 0x0F, true, 0x1B, false, false, false, true⟩,
    ⟨0x00, 0x00, true, 0x00, false, false, true, true⟩].all (AluVec.passes sbcResult true) = true := by decide

/-! Step vectors of 95_test_vectors.md: one step from a small state, every register, P through the accessor, PC, the cells
named, and the whole bus trace (whose length is the cycle count). -/

/-- The five bytes of a vector's register columns. -/
structure RegVec where
  a : Nat
  x : Nat
  y : Nat
  s : Nat
  p : Nat

/-- A row: address and bytes of the instruction, memory and registers before; registers, PC, memory cells and trace after. -/
structure StepVec where
  atPc : Nat
  bytes : List Nat
  mem : List (Nat × Nat)
  before : RegVec
  after : RegVec
  pc : Nat
  cells : List (Nat × Nat)
  trace : List BusCycle

/-- `R $aaaa=vv` of a trace. -/
def R (a v : Nat) : BusCycle := .read (BitVec.ofNat 16 a) (BitVec.ofNat 8 v)
/-- `W $aaaa=vv` of a trace. -/
def W (a v : Nat) : BusCycle := .write (BitVec.ofNat 16 a) (BitVec.ofNat 8 v)
/-- `-` of a trace. -/
def I : BusCycle := .idle

/-- Memory holding the given cells. -/
def memOf (cells : List (Nat × Nat)) : Memory :=
  cells.foldl (fun m c => Memory.write m c.1 (BitVec.ofNat 8 c.2)) []

/-- A state at an instruction boundary with the given registers and memory. -/
def stateAt (pc : Nat) (r : RegVec) (cells : List (Nat × Nat)) : State where
  a := BitVec.ofNat 8 r.a
  x := BitVec.ofNat 8 r.x
  y := BitVec.ofNat 8 r.y
  sp := BitVec.ofNat 8 r.s
  pc := BitVec.ofNat 16 pc
  p := Flags.unpack (BitVec.ofNat 8 r.p)
  cycles := 50
  pendingNmi := false
  pendingIrq := false
  phase := .boundary
  bus := ⟨memOf cells, [], 0⟩
  trace := []
  result := none

/-- The accessors a vector expects after a step from `cycles = 50`. -/
def accessorsOf (pc : Nat) (r : RegVec) (cost : Nat) : Accessors :=
  ⟨BitVec.ofNat 8 r.a, BitVec.ofNat 8 r.x, BitVec.ofNat 8 r.y, BitVec.ofNat 8 r.s, BitVec.ofNat 16 pc, BitVec.ofNat 8 r.p,
    BitVec.ofNat 64 (50 + cost)⟩

/-- A next state that shows what is expected of it. -/
def shows (o : Host.Outcome State Fault Refusal) (pc : Nat) (r : RegVec) (cells : List (Nat × Nat))
    (trace : List BusCycle) : Bool :=
  match o with
  | .next t =>
    decide (t.accessors = accessorsOf pc r trace.length) && decide (t.trace = trace) &&
      cells.all (fun c => decide (Memory.read t.bus.mem c.1 = BitVec.ofNat 8 c.2))
  | .fault _ => false
  | .refused _ => false

/-- The step of a vector gives what the vector says. -/
def StepVec.passes (v : StepVec) : Bool :=
  let code := (List.range v.bytes.length).zip v.bytes |>.map (fun c => (v.atPc + c.1, c.2))
  shows (step (stateAt v.atPc v.before (v.mem ++ code))) v.pc v.after v.cells v.trace

theorem test_step_lda_LS1_LS2_LS3_LS4_LS5_LS6 : [
    ⟨0x0200, [0xA9, 0x00], [], ⟨0x55, 0x00, 0x00, 0x00, 0xA4⟩,
      ⟨0x00, 0x00, 0x00, 0x00, 0x26⟩, 0x0202, [], [R 0x0200 0xA9, R 0x0201 0x00]⟩,
    ⟨0x0200, [0xA9, 0x80], [], ⟨0x00, 0x00, 0x00, 0x00, 0x26⟩,
      ⟨0x80, 0x00, 0x00, 0x00, 0xA4⟩, 0x0202, [], [R 0x0200 0xA9, R 0x0201 0x80]⟩,
    ⟨0x0200, [0xBD, 0xF0, 0x12], [(0x1310, 0x5A)], ⟨0x00, 0x20, 0x00, 0x00, 0x24⟩,
      ⟨0x5A, 0x20, 0x00, 0x00, 0x24⟩, 0x0203, [], [R 0x0200 0xBD, R 0x0201 0xF0, R 0x0202 0x12, I, R 0x1310 0x5A]⟩,
    ⟨0x0200, [0xBD, 0xF0, 0x12], [(0x12F5, 0x5B)], ⟨0x00, 0x05, 0x00, 0x00, 0x24⟩,
      ⟨0x5B, 0x05, 0x00, 0x00, 0x24⟩, 0x0203, [], [R 0x0200 0xBD, R 0x0201 0xF0, R 0x0202 0x12, R 0x12F5 0x5B]⟩,
    ⟨0x0200, [0xB1, 0xFF], [(0x0000, 0x12), (0x00FF, 0x34), (0x0100, 0x99), (0x1244, 0x77)], ⟨0x00, 0x00, 0x10, 0x00, 0x24⟩,
      ⟨0x77, 0x00, 0x10, 0x00, 0x24⟩, 0x0202, [], [R 0x0200 0xB1, R 0x0201 0xFF, R 0x00FF 0x34, R 0x0000 0x12, R 0x1244 0x77]⟩,
    ⟨0x0200, [0xA1, 0xFE], [(0x0000, 0x30), (0x00FF, 0x00), (0x0100, 0x99), (0x3000, 0xC3)], ⟨0x00, 0x01, 0x00, 0x00, 0x24⟩,
      ⟨0xC3, 0x01, 0x00, 0x00, 0xA4⟩, 0x0202, [], [R 0x0200 0xA1, R 0x0201 0xFE, I, R 0x00FF 0x00, R 0x0000 0x30, R 0x3000 0xC3]⟩].all StepVec.passes = true := by decide

theorem test_step_ldx_LS7 : [
    ⟨0x0200, [0xB6, 0xF0], [(0x0010, 0x07), (0x0110, 0x99)], ⟨0x00, 0x00, 0x20, 0x00, 0x24⟩,
      ⟨0x00, 0x07, 0x20, 0x00, 0x24⟩, 0x0202, [], [R 0x0200 0xB6, R 0x0201 0xF0, I, R 0x0010 0x07]⟩].all StepVec.passes = true := by decide

theorem test_step_ldy_LS8 : [
    ⟨0x0200, [0xBC, 0xFF, 0xFF], [(0x0000, 0x80)], ⟨0x00, 0x01, 0x00, 0x00, 0x24⟩,
      ⟨0x00, 0x01, 0x80, 0x00, 0xA4⟩, 0x0203, [], [R 0x0200 0xBC, R 0x0201 0xFF, R 0x0202 0xFF, I, R 0x0000 0x80]⟩].all StepVec.passes = true := by decide

theorem test_step_sta_LS9_LS10_LS11_LS14 : [
    ⟨0x0200, [0x9D, 0xF0, 0x12], [], ⟨0xAB, 0x20, 0x00, 0x00, 0xA5⟩,
      ⟨0xAB, 0x20, 0x00, 0x00, 0xA5⟩, 0x0203, [(0x1310, 0xAB)], [R 0x0200 0x9D, R 0x0201 0xF0, R 0x0202 0x12, I, W 0x1310 0xAB]⟩,
    ⟨0x0200, [0x9D, 0x00, 0x12], [], ⟨0xAB, 0x00, 0x00, 0x00, 0x24⟩,
      ⟨0xAB, 0x00, 0x00, 0x00, 0x24⟩, 0x0203, [(0x1200, 0xAB)], [R 0x0200 0x9D, R 0x0201 0x00, R 0x0202 0x12, I, W 0x1200 0xAB]⟩,
    ⟨0x0200, [0x91, 0x10], [(0x0010, 0x00), (0x0011, 0x40)], ⟨0x00, 0x00, 0x05, 0x00, 0x24⟩,
      ⟨0x00, 0x00, 0x05, 0x00, 0x24⟩, 0x0202, [(0x4005, 0x00)], [R 0x0200 0x91, R 0x0201 0x10, R 0x0010 0x00, R 0x0011 0x40, I, W 0x4005 0x00]⟩,
    ⟨0x0200, [0x81, 0x20], [(0x0024, 0x78), (0x0025, 0x56)], ⟨0x11, 0x04, 0x00, 0x00, 0x24⟩,
      ⟨0x11, 0x04, 0x00, 0x00, 0x24⟩, 0x0202, [(0x5678, 0x11)], [R 0x0200 0x81, R 0x0201 0x20, I, R 0x0024 0x78, R 0x0025 0x56, W 0x5678 0x11]⟩].all StepVec.passes = true := by decide

theorem test_step_stx_LS12 : [
    ⟨0x0200, [0x96, 0xFF], [], ⟨0x00, 0x7E, 0x02, 0x00, 0x24⟩,
      ⟨0x00, 0x7E, 0x02, 0x00, 0x24⟩, 0x0202, [(0x0001, 0x7E), (0x0101, 0x00)], [R 0x0200 0x96, R 0x0201 0xFF, I, W 0x0001 0x7E]⟩].all StepVec.passes = true := by decide

theorem test_step_sty_LS13 : [
    ⟨0x0200, [0x8C, 0x34, 0x12], [], ⟨0x00, 0x00, 0x00, 0x00, 0xA4⟩,
      ⟨0x00, 0x00, 0x00, 0x00, 0xA4⟩, 0x0203, [(0x1234, 0x00)], [R 0x0200 0x8C, R 0x0201 0x34, R 0x0202 0x12, W 0x1234 0x00]⟩].all StepVec.passes = true := by decide

theorem test_step_tax_T1 : [
    ⟨0x0200, [0xAA], [], ⟨0x00, 0x55, 0x00, 0x00, 0xA4⟩,
      ⟨0x00, 0x00, 0x00, 0x00, 0x26⟩, 0x0201, [], [R 0x0200 0xAA, I]⟩].all StepVec.passes = true := by decide

theorem test_step_tay_T2 : [
    ⟨0x0200, [0xA8], [], ⟨0x80, 0x00, 0x00, 0x00, 0x26⟩,
      ⟨0x80, 0x00, 0x80, 0x00, 0xA4⟩, 0x0201, [], [R 0x0200 0xA8, I]⟩].all StepVec.passes = true := by decide

theorem test_step_tsx_T3 : [
    ⟨0x0200, [0xBA], [], ⟨0x00, 0x00, 0x00, 0xFD, 0x26⟩,
      ⟨0x00, 0xFD, 0x00, 0xFD, 0xA4⟩, 0x0201, [], [R 0x0200 0xBA, I]⟩].all StepVec.passes = true := by decide

theorem test_step_txa_T4 : [
    ⟨0x0200, [0x8A], [], ⟨0xFF, 0x00, 0x00, 0x00, 0xA4⟩,
      ⟨0x00, 0x00, 0x00, 0x00, 0x26⟩, 0x0201, [], [R 0x0200 0x8A, I]⟩].all StepVec.passes = true := by decide

theorem test_step_tya_T5 : [
    ⟨0x0200, [0x98], [], ⟨0x00, 0x00, 0x7F, 0x00, 0xA6⟩,
      ⟨0x7F, 0x00, 0x7F, 0x00, 0x24⟩, 0x0201, [], [R 0x0200 0x98, I]⟩].all StepVec.passes = true := by decide

theorem test_step_txs_T6_T7 : [
    ⟨0x0200, [0x9A], [], ⟨0x00, 0x00, 0x00, 0xFD, 0xA4⟩,
      ⟨0x00, 0x00, 0x00, 0x00, 0xA4⟩, 0x0201, [], [R 0x0200 0x9A, I]⟩,
    ⟨0x0200, [0x9A], [], ⟨0x00, 0xFF, 0x00, 0x00, 0x26⟩,
      ⟨0x00, 0xFF, 0x00, 0xFF, 0x26⟩, 0x0201, [], [R 0x0200 0x9A, I]⟩].all StepVec.passes = true := by decide

theorem test_step_adc_AI1_AI2_AI3_AI4 : [
    ⟨0x0200, [0x69, 0x50], [], ⟨0x50, 0x00, 0x00, 0x00, 0x24⟩,
      ⟨0xA0, 0x00, 0x00, 0x00, 0xE4⟩, 0x0202, [], [R 0x0200 0x69, R 0x0201 0x50]⟩,
    ⟨0x0200, [0x69, 0x27], [], ⟨0x15, 0x00, 0x00, 0x00, 0x2C⟩,
      ⟨0x42, 0x00, 0x00, 0x00, 0x2C⟩, 0x0202, [], [R 0x0200 0x69, R 0x0201 0x27]⟩,
    ⟨0x0200, [0x69, 0x46], [], ⟨0x58, 0x00, 0x00, 0x00, 0x2C⟩,
      ⟨0x04, 0x00, 0x00, 0x00, 0xED⟩, 0x0202, [], [R 0x0200 0x69, R 0x0201 0x46]⟩,
    ⟨0x0200, [0x79, 0xFF, 0x12], [(0x1300, 0x01)], ⟨0xFF, 0x00, 0x01, 0x00, 0x25⟩,
      ⟨0x01, 0x00, 0x01, 0x00, 0x25⟩, 0x0203, [], [R 0x0200 0x79, R 0x0201 0xFF, R 0x0202 0x12, I, R 0x1300 0x01]⟩].all StepVec.passes = true := by decide

theorem test_step_sbc_AI5_AI6_AI7 : [
    ⟨0x0200, [0xE5, 0x10], [(0x0010, 0x01)], ⟨0x00, 0x00, 0x00, 0x00, 0x25⟩,
      ⟨0xFF, 0x00, 0x00, 0x00, 0xA4⟩, 0x0202, [], [R 0x0200 0xE5, R 0x0201 0x10, R 0x0010 0x01]⟩,
    ⟨0x0200, [0xF1, 0x20], [(0x0020, 0x80), (0x0021, 0x40), (0x4082, 0x27)], ⟨0x42, 0x00, 0x02, 0x00, 0x2D⟩,
      ⟨0x15, 0x00, 0x02, 0x00, 0x2D⟩, 0x0202, [], [R 0x0200 0xF1, R 0x0201 0x20, R 0x0020 0x80, R 0x0021 0x40, R 0x4082 0x27]⟩,
    ⟨0x0200, [0xE9, 0x00], [], ⟨0x00, 0x00, 0x00, 0x00, 0x2C⟩,
      ⟨0x99, 0x00, 0x00, 0x00, 0xAC⟩, 0x0202, [], [R 0x0200 0xE9, R 0x0201 0x00]⟩].all StepVec.passes = true := by decide

theorem test_step_and_L1_L2 : [
    ⟨0x0200, [0x29, 0x0F], [], ⟨0xF0, 0x00, 0x00, 0x00, 0x24⟩,
      ⟨0x00, 0x00, 0x00, 0x00, 0x26⟩, 0x0202, [], [R 0x0200 0x29, R 0x0201 0x0F]⟩,
    ⟨0x0200, [0x29, 0x80], [], ⟨0xFF, 0x00, 0x00, 0x00, 0x24⟩,
      ⟨0x80, 0x00, 0x00, 0x00, 0xA4⟩, 0x0202, [], [R 0x0200 0x29, R 0x0201 0x80]⟩].all StepVec.passes = true := by decide

theorem test_step_ora_L3_L4 : [
    ⟨0x0200, [0x09, 0x00], [], ⟨0x00, 0x00, 0x00, 0x00, 0xA4⟩,
      ⟨0x00, 0x00, 0x00, 0x00, 0x26⟩, 0x0202, [], [R 0x0200 0x09, R 0x0201 0x00]⟩,
    ⟨0x0200, [0x09, 0x81], [], ⟨0x10, 0x00, 0x00, 0x00, 0x24⟩,
      ⟨0x91, 0x00, 0x00, 0x00, 0xA4⟩, 0x0202, [], [R 0x0200 0x09, R 0x0201 0x81]⟩].all StepVec.passes = true := by decide

theorem test_step_eor_L5_L6 : [
    ⟨0x0200, [0x49, 0xFF], [], ⟨0xFF, 0x00, 0x00, 0x00, 0xA5⟩,
      ⟨0x00, 0x00, 0x00, 0x00, 0x27⟩, 0x0202, [], [R 0x0200 0x49, R 0x0201 0xFF]⟩,
    ⟨0x0200, [0x49, 0xFF], [], ⟨0x0F, 0x00, 0x00, 0x00, 0x24⟩,
      ⟨0xF0, 0x00, 0x00, 0x00, 0xA4⟩, 0x0202, [], [R 0x0200 0x49, R 0x0201 0xFF]⟩].all StepVec.passes = true := by decide

theorem test_step_inc_L7_L9_L11 : [
    ⟨0x0200, [0xE6, 0x10], [(0x0010, 0xFF)], ⟨0x33, 0x00, 0x00, 0x00, 0xA5⟩,
      ⟨0x33, 0x00, 0x00, 0x00, 0x27⟩, 0x0202, [(0x0010, 0x00)], [R 0x0200 0xE6, R 0x0201 0x10, R 0x0010 0xFF, W 0x0010 0xFF, W 0x0010 0x00]⟩,
    ⟨0x0200, [0xFE, 0xF0, 0x12], [(0x1310, 0x7F)], ⟨0x00, 0x20, 0x00, 0x00, 0x24⟩,
      ⟨0x00, 0x20, 0x00, 0x00, 0xA4⟩, 0x0203, [(0x1310, 0x80)], [R 0x0200 0xFE, R 0x0201 0xF0, R 0x0202 0x12, I, R 0x1310 0x7F, W 0x1310 0x7F, W 0x1310 0x80]⟩,
    ⟨0x0200, [0xF6, 0xFF], [(0x0001, 0x41)], ⟨0x00, 0x02, 0x00, 0x00, 0x24⟩,
      ⟨0x00, 0x02, 0x00, 0x00, 0x24⟩, 0x0202, [(0x0001, 0x42), (0x0101, 0x00)], [R 0x0200 0xF6, R 0x0201 0xFF, I, R 0x0001 0x41, W 0x0001 0x41, W 0x0001 0x42]⟩].all StepVec.passes = true := by decide

theorem test_step_dec_L8_L10 : [
    ⟨0x0200, [0xC6, 0x10], [(0x0010, 0x00)], ⟨0x00, 0x00, 0x00, 0x00, 0x26⟩,
      ⟨0x00, 0x00, 0x00, 0x00, 0xA4⟩, 0x0202, [(0x0010, 0xFF)], [R 0x0200 0xC6, R 0x0201 0x10, R 0x0010 0x00, W 0x0010 0x00, W 0x0010 0xFF]⟩,
    ⟨0x0200, [0xDE, 0x00, 0x12], [(0x1200, 0x01)], ⟨0x00, 0x00, 0x00, 0x00, 0x24⟩,
      ⟨0x00, 0x00, 0x00, 0x00, 0x26⟩, 0x0203, [(0x1200, 0x00)], [R 0x0200 0xDE, R 0x0201 0x00, R 0x0202 0x12, I, R 0x1200 0x01, W 0x1200 0x01, W 0x1200 0x00]⟩].all StepVec.passes = true := by decide

theorem test_step_inx_L12 : [
    ⟨0x0200, [0xE8], [], ⟨0x00, 0xFF, 0x00, 0x00, 0xA4⟩,
      ⟨0x00, 0x00, 0x00, 0x00, 0x26⟩, 0x0201, [], [R 0x0200 0xE8, I]⟩].all StepVec.passes = true := by decide

theorem test_step_iny_L13 : [
    ⟨0x0200, [0xC8], [], ⟨0x00, 0x00, 0x7F, 0x00, 0x24⟩,
      ⟨0x00, 0x00, 0x80, 0x00, 0xA4⟩, 0x0201, [], [R 0x0200 0xC8, I]⟩].all StepVec.passes = true := by decide

theorem test_step_dex_L14 : [
    ⟨0x0200, [0xCA], [], ⟨0x00, 0x00, 0x00, 0x00, 0x26⟩,
      ⟨0x00, 0xFF, 0x00, 0x00, 0xA4⟩, 0x0201, [], [R 0x0200 0xCA, I]⟩].all StepVec.passes = true := by decide

theorem test_step_dey_L15 : [
    ⟨0x0200, [0x88], [], ⟨0x00, 0x00, 0x01, 0x00, 0x24⟩,
      ⟨0x00, 0x00, 0x00, 0x00, 0x26⟩, 0x0201, [], [R 0x0200 0x88, I]⟩].all StepVec.passes = true := by decide

theorem test_step_asl_SH1_SH2_SH9 : [
    ⟨0x0200, [0x0A], [], ⟨0x80, 0x00, 0x00, 0x00, 0x24⟩,
      ⟨0x00, 0x00, 0x00, 0x00, 0x27⟩, 0x0201, [], [R 0x0200 0x0A, I]⟩,
    ⟨0x0200, [0x0A], [], ⟨0x41, 0x00, 0x00, 0x00, 0x25⟩,
      ⟨0x82, 0x00, 0x00, 0x00, 0xA4⟩, 0x0201, [], [R 0x0200 0x0A, I]⟩,
    ⟨0x0200, [0x06, 0x10], [(0x0010, 0xC0)], ⟨0x11, 0x00, 0x00, 0x00, 0x24⟩,
      ⟨0x11, 0x00, 0x00, 0x00, 0xA5⟩, 0x0202, [(0x0010, 0x80)], [R 0x0200 0x06, R 0x0201 0x10, R 0x0010 0xC0, W 0x0010 0xC0, W 0x0010 0x80]⟩].all StepVec.passes = true := by decide

theorem test_step_lsr_SH3_SH4_SH11 : [
    ⟨0x0200, [0x4A], [], ⟨0x01, 0x00, 0x00, 0x00, 0xA4⟩,
      ⟨0x00, 0x00, 0x00, 0x00, 0x27⟩, 0x0201, [], [R 0x0200 0x4A, I]⟩,
    ⟨0x0200, [0x4A], [], ⟨0xFF, 0x00, 0x00, 0x00, 0x24⟩,
      ⟨0x7F, 0x00, 0x00, 0x00, 0x25⟩, 0x0201, [], [R 0x0200 0x4A, I]⟩,
    ⟨0x0200, [0x56, 0xF0], [(0x0010, 0x03)], ⟨0x00, 0x20, 0x00, 0x00, 0x24⟩,
      ⟨0x00, 0x20, 0x00, 0x00, 0x25⟩, 0x0202, [(0x0010, 0x01)], [R 0x0200 0x56, R 0x0201 0xF0, I, R 0x0010 0x03, W 0x0010 0x03, W 0x0010 0x01]⟩].all StepVec.passes = true := by decide

theorem test_step_rol_SH5_SH6_SH12 : [
    ⟨0x0200, [0x2A], [], ⟨0x80, 0x00, 0x00, 0x00, 0x25⟩,
      ⟨0x01, 0x00, 0x00, 0x00, 0x25⟩, 0x0201, [], [R 0x0200 0x2A, I]⟩,
    ⟨0x0200, [0x2A], [], ⟨0x40, 0x00, 0x00, 0x00, 0x24⟩,
      ⟨0x80, 0x00, 0x00, 0x00, 0xA4⟩, 0x0201, [], [R 0x0200 0x2A, I]⟩,
    ⟨0x0200, [0x2E, 0x34, 0x12], [(0x1234, 0x7F)], ⟨0x00, 0x00, 0x00, 0x00, 0x25⟩,
      ⟨0x00, 0x00, 0x00, 0x00, 0xA4⟩, 0x0203, [(0x1234, 0xFF)], [R 0x0200 0x2E, R 0x0201 0x34, R 0x0202 0x12, R 0x1234 0x7F, W 0x1234 0x7F, W 0x1234 0xFF]⟩].all StepVec.passes = true := by decide

theorem test_step_ror_SH7_SH8_SH10 : [
    ⟨0x0200, [0x6A], [], ⟨0x01, 0x00, 0x00, 0x00, 0x24⟩,
      ⟨0x00, 0x00, 0x00, 0x00, 0x27⟩, 0x0201, [], [R 0x0200 0x6A, I]⟩,
    ⟨0x0200, [0x6A], [], ⟨0x00, 0x00, 0x00, 0x00, 0x25⟩,
      ⟨0x80, 0x00, 0x00, 0x00, 0xA4⟩, 0x0201, [], [R 0x0200 0x6A, I]⟩,
    ⟨0x0200, [0x7E, 0x00, 0x30], [(0x3001, 0x02)], ⟨0x00, 0x01, 0x00, 0x00, 0x25⟩,
      ⟨0x00, 0x01, 0x00, 0x00, 0xA4⟩, 0x0203, [(0x3001, 0x81)], [R 0x0200 0x7E, R 0x0201 0x00, R 0x0202 0x30, I, R 0x3001 0x02, W 0x3001 0x02, W 0x3001 0x81]⟩].all StepVec.passes = true := by decide

theorem test_step_cmp_CP1_CP2_CP3_CP4_CP5 : [
    ⟨0x0200, [0xC9, 0x0A], [], ⟨0x0A, 0x00, 0x00, 0x00, 0x24⟩,
      ⟨0x0A, 0x00, 0x00, 0x00, 0x27⟩, 0x0202, [], [R 0x0200 0xC9, R 0x0201 0x0A]⟩,
    ⟨0x0200, [0xC9, 0x0A], [], ⟨0x09, 0x00, 0x00, 0x00, 0x25⟩,
      ⟨0x09, 0x00, 0x00, 0x00, 0xA4⟩, 0x0202, [], [R 0x0200 0xC9, R 0x0201 0x0A]⟩,
    ⟨0x0200, [0xC9, 0x01], [], ⟨0x80, 0x00, 0x00, 0x00, 0x24⟩,
      ⟨0x80, 0x00, 0x00, 0x00, 0x25⟩, 0x0202, [], [R 0x0200 0xC9, R 0x0201 0x01]⟩,
    ⟨0x0200, [0xC9, 0x80], [], ⟨0x00, 0x00, 0x00, 0x00, 0x6D⟩,
      ⟨0x00, 0x00, 0x00, 0x00, 0xEC⟩, 0x0202, [], [R 0x0200 0xC9, R 0x0201 0x80]⟩,
    ⟨0x0200, [0xC9, 0xFF], [], ⟨0xFF, 0x00, 0x00, 0x00, 0x24⟩,
      ⟨0xFF, 0x00, 0x00, 0x00, 0x27⟩, 0x0202, [], [R 0x0200 0xC9, R 0x0201 0xFF]⟩].all StepVec.passes = true := by decide

theorem test_step_cpx_CP6_CP7 : [
    ⟨0x0200, [0xE0, 0x20], [], ⟨0x00, 0x10, 0x00, 0x00, 0x24⟩,
      ⟨0x00, 0x10, 0x00, 0x00, 0xA4⟩, 0x0202, [], [R 0x0200 0xE0, R 0x0201 0x20]⟩,
    ⟨0x0200, [0xE4, 0x10], [(0x0010, 0x10)], ⟨0x00, 0x10, 0x00, 0x00, 0xA4⟩,
      ⟨0x00, 0x10, 0x00, 0x00, 0x27⟩, 0x0202, [], [R 0x0200 0xE4, R 0x0201 0x10, R 0x0010 0x10]⟩].all StepVec.passes = true := by decide

theorem test_step_cpy_CP8_CP9 : [
    ⟨0x0200, [0xC0, 0x05], [], ⟨0x00, 0x00, 0x05, 0x00, 0x24⟩,
      ⟨0x00, 0x00, 0x05, 0x00, 0x27⟩, 0x0202, [], [R 0x0200 0xC0, R 0x0201 0x05]⟩,
    ⟨0x0200, [0xCC, 0x34, 0x12], [(0x1234, 0x01)], ⟨0x00, 0x00, 0x00, 0x00, 0x25⟩,
      ⟨0x00, 0x00, 0x00, 0x00, 0xA4⟩, 0x0203, [], [R 0x0200 0xCC, R 0x0201 0x34, R 0x0202 0x12, R 0x1234 0x01]⟩].all StepVec.passes = true := by decide

theorem test_step_bit_CP10_CP11_CP12_CP13 : [
    ⟨0x0200, [0x24, 0x10], [(0x0010, 0x41)], ⟨0x01, 0x00, 0x00, 0x00, 0x24⟩,
      ⟨0x01, 0x00, 0x00, 0x00, 0x64⟩, 0x0202, [], [R 0x0200 0x24, R 0x0201 0x10, R 0x0010 0x41]⟩,
    ⟨0x0200, [0x24, 0x10], [(0x0010, 0xC0)], ⟨0x3F, 0x00, 0x00, 0x00, 0x24⟩,
      ⟨0x3F, 0x00, 0x00, 0x00, 0xE6⟩, 0x0202, [], [R 0x0200 0x24, R 0x0201 0x10, R 0x0010 0xC0]⟩,
    ⟨0x0200, [0x2C, 0x00, 0x40], [(0x4000, 0x00)], ⟨0xFF, 0x00, 0x00, 0x00, 0xE5⟩,
      ⟨0xFF, 0x00, 0x00, 0x00, 0x27⟩, 0x0203, [], [R 0x0200 0x2C, R 0x0201 0x00, R 0x0202 0x40, R 0x4000 0x00]⟩,
    ⟨0x0200, [0x2C, 0x00, 0x40], [(0x4000, 0xFF)], ⟨0x00, 0x00, 0x00, 0x00, 0x24⟩,
      ⟨0x00, 0x00, 0x00, 0x00, 0xE6⟩, 0x0203, [], [R 0x0200 0x2C, R 0x0201 0x00, R 0x0202 0x40, R 0x4000 0xFF]⟩].all StepVec.passes = true := by decide

theorem test_step_bpl_B6 : [
    ⟨0x0200, [0x10, 0x00], [], ⟨0x00, 0x00, 0x00, 0x00, 0x24⟩,
      ⟨0x00, 0x00, 0x00, 0x00, 0x24⟩, 0x0202, [], [R 0x0200 0x10, R 0x0201 0x00, I]⟩].all StepVec.passes = true := by decide

theorem test_step_bmi_B4 : [
    ⟨0x8000, [0x30, 0xFC], [], ⟨0x00, 0x00, 0x00, 0x00, 0xA4⟩,
      ⟨0x00, 0x00, 0x00, 0x00, 0xA4⟩, 0x7FFE, [], [R 0x8000 0x30, R 0x8001 0xFC, I, I]⟩].all StepVec.passes = true := by decide

theorem test_step_bvc_B8 : [
    ⟨0x0280, [0x50, 0x80], [], ⟨0x00, 0x00, 0x00, 0x00, 0x24⟩,
      ⟨0x00, 0x00, 0x00, 0x00, 0x24⟩, 0x0202, [], [R 0x0280 0x50, R 0x0281 0x80, I]⟩].all StepVec.passes = true := by decide

theorem test_step_bvs_B7 : [
    ⟨0x0200, [0x70, 0x7F], [], ⟨0x00, 0x00, 0x00, 0x00, 0x64⟩,
      ⟨0x00, 0x00, 0x00, 0x00, 0x64⟩, 0x0281, [], [R 0x0200 0x70, R 0x0201 0x7F, I]⟩].all StepVec.passes = true := by decide

theorem test_step_bcc_B3 : [
    ⟨0x02F0, [0x90, 0x20], [], ⟨0x00, 0x00, 0x00, 0x00, 0x24⟩,
      ⟨0x00, 0x00, 0x00, 0x00, 0x24⟩, 0x0312, [], [R 0x02F0 0x90, R 0x02F1 0x20, I, I]⟩].all StepVec.passes = true := by decide

theorem test_step_bcs_B9_B10 : [
    ⟨0xFFFD, [0xB0, 0x05], [], ⟨0x00, 0x00, 0x00, 0x00, 0x25⟩,
      ⟨0x00, 0x00, 0x00, 0x00, 0x25⟩, 0x0004, [], [R 0xFFFD 0xB0, R 0xFFFE 0x05, I, I]⟩,
    ⟨0x0200, [0xB0, 0x05], [], ⟨0x00, 0x00, 0x00, 0x00, 0x24⟩,
      ⟨0x00, 0x00, 0x00, 0x00, 0x24⟩, 0x0202, [], [R 0x0200 0xB0, R 0x0201 0x05]⟩].all StepVec.passes = true := by decide

theorem test_step_bne_B1_B2_B11 : [
    ⟨0x0200, [0xD0, 0x05], [], ⟨0x00, 0x00, 0x00, 0x00, 0x26⟩,
      ⟨0x00, 0x00, 0x00, 0x00, 0x26⟩, 0x0202, [], [R 0x0200 0xD0, R 0x0201 0x05]⟩,
    ⟨0x0200, [0xD0, 0x05], [], ⟨0x00, 0x00, 0x00, 0x00, 0x24⟩,
      ⟨0x00, 0x00, 0x00, 0x00, 0x24⟩, 0x0207, [], [R 0x0200 0xD0, R 0x0201 0x05, I]⟩,
    ⟨0x02FE, [0xD0, 0xFD], [], ⟨0x00, 0x00, 0x00, 0x00, 0x24⟩,
      ⟨0x00, 0x00, 0x00, 0x00, 0x24⟩, 0x02FD, [], [R 0x02FE 0xD0, R 0x02FF 0xFD, I, I]⟩].all StepVec.passes = true := by decide

theorem test_step_beq_B5 : [
    ⟨0x0200, [0xF0, 0xFE], [], ⟨0x00, 0x00, 0x00, 0x00, 0x26⟩,
      ⟨0x00, 0x00, 0x00, 0x00, 0x26⟩, 0x0200, [], [R 0x0200 0xF0, R 0x0201 0xFE, I]⟩].all StepVec.passes = true := by decide

theorem test_step_jmp_J1_J2_J3_J4 : [
    ⟨0x0200, [0x4C, 0x34, 0x12], [], ⟨0x00, 0x00, 0x00, 0x00, 0x24⟩,
      ⟨0x00, 0x00, 0x00, 0x00, 0x24⟩, 0x1234, [], [R 0x0200 0x4C, R 0x0201 0x34, R 0x0202 0x12]⟩,
    ⟨0x0200, [0x6C, 0xFF, 0x12], [(0x1200, 0x12), (0x12FF, 0x34), (0x1300, 0x56)], ⟨0x00, 0x00, 0x00, 0x00, 0x24⟩,
      ⟨0x00, 0x00, 0x00, 0x00, 0x24⟩, 0x1234, [], [R 0x0200 0x6C, R 0x0201 0xFF, R 0x0202 0x12, R 0x12FF 0x34, R 0x1200 0x12]⟩,
    ⟨0x0200, [0x6C, 0x00, 0x30], [(0x3000, 0xCD), (0x3001, 0xAB)], ⟨0x00, 0x00, 0x00, 0x00, 0x24⟩,
      ⟨0x00, 0x00, 0x00, 0x00, 0x24⟩, 0xABCD, [], [R 0x0200 0x6C, R 0x0201 0x00, R 0x0202 0x30, R 0x3000 0xCD, R 0x3001 0xAB]⟩,
    ⟨0x0200, [0x6C, 0xFF, 0xFF], [(0x0000, 0x33), (0xFF00, 0x22), (0xFFFF, 0x11)], ⟨0x00, 0x00, 0x00, 0x00, 0x24⟩,
      ⟨0x00, 0x00, 0x00, 0x00, 0x24⟩, 0x2211, [], [R 0x0200 0x6C, R 0x0201 0xFF, R 0x0202 0xFF, R 0xFFFF 0x11, R 0xFF00 0x22]⟩].all StepVec.passes = true := by decide

theorem test_step_jsr_J5_J6 : [
    ⟨0x8000, [0x20, 0x34, 0x12], [], ⟨0x00, 0x00, 0x00, 0xFD, 0x24⟩,
      ⟨0x00, 0x00, 0x00, 0xFB, 0x24⟩, 0x1234, [(0x01FD, 0x80), (0x01FC, 0x02)], [R 0x8000 0x20, R 0x8001 0x34, I, W 0x01FD 0x80, W 0x01FC 0x02, R 0x8002 0x12]⟩,
    ⟨0x80FE, [0x20, 0x00, 0x90], [], ⟨0x00, 0x00, 0x00, 0x00, 0x24⟩,
      ⟨0x00, 0x00, 0x00, 0xFE, 0x24⟩, 0x9000, [(0x0100, 0x81), (0x01FF, 0x00)], [R 0x80FE 0x20, R 0x80FF 0x00, I, W 0x0100 0x81, W 0x01FF 0x00, R 0x8100 0x90]⟩].all StepVec.passes = true := by decide

theorem test_step_rts_J7_J8 : [
    ⟨0x0200, [0x60], [(0x01FC, 0x02), (0x01FD, 0x80)], ⟨0x00, 0x00, 0x00, 0xFB, 0x24⟩,
      ⟨0x00, 0x00, 0x00, 0xFD, 0x24⟩, 0x8003, [], [R 0x0200 0x60, I, I, R 0x01FC 0x02, R 0x01FD 0x80, I]⟩,
    ⟨0x0200, [0x60], [(0x0100, 0xFF), (0x0101, 0xFF)], ⟨0x00, 0x00, 0x00, 0xFF, 0x24⟩,
      ⟨0x00, 0x00, 0x00, 0x01, 0x24⟩, 0x0000, [], [R 0x0200 0x60, I, I, R 0x0100 0xFF, R 0x0101 0xFF, I]⟩].all StepVec.passes = true := by decide

theorem test_step_pha_SF1_SF2 : [
    ⟨0x0200, [0x48], [], ⟨0x42, 0x00, 0x00, 0xFD, 0xA4⟩,
      ⟨0x42, 0x00, 0x00, 0xFC, 0xA4⟩, 0x0201, [(0x01FD, 0x42)], [R 0x0200 0x48, I, W 0x01FD 0x42]⟩,
    ⟨0x0200, [0x48], [], ⟨0x42, 0x00, 0x00, 0x00, 0x24⟩,
      ⟨0x42, 0x00, 0x00, 0xFF, 0x24⟩, 0x0201, [(0x0100, 0x42)], [R 0x0200 0x48, I, W 0x0100 0x42]⟩].all StepVec.passes = true := by decide

theorem test_step_pla_SF3_SF4 : [
    ⟨0x0200, [0x68], [(0x01FD, 0x00)], ⟨0x42, 0x00, 0x00, 0xFC, 0xA4⟩,
      ⟨0x00, 0x00, 0x00, 0xFD, 0x26⟩, 0x0201, [], [R 0x0200 0x68, I, I, R 0x01FD 0x00]⟩,
    ⟨0x0200, [0x68], [(0x0100, 0x80)], ⟨0x42, 0x00, 0x00, 0xFF, 0x24⟩,
      ⟨0x80, 0x00, 0x00, 0x00, 0xA4⟩, 0x0201, [], [R 0x0200 0x68, I, I, R 0x0100 0x80]⟩].all StepVec.passes = true := by decide

theorem test_step_php_SF5_SF6 : [
    ⟨0x0200, [0x08], [], ⟨0x00, 0x00, 0x00, 0xFD, 0xA5⟩,
      ⟨0x00, 0x00, 0x00, 0xFC, 0xA5⟩, 0x0201, [(0x01FD, 0xB5)], [R 0x0200 0x08, I, W 0x01FD 0xB5]⟩,
    ⟨0x0200, [0x08], [], ⟨0x00, 0x00, 0x00, 0xFD, 0x24⟩,
      ⟨0x00, 0x00, 0x00, 0xFC, 0x24⟩, 0x0201, [(0x01FD, 0x34)], [R 0x0200 0x08, I, W 0x01FD 0x34]⟩].all StepVec.passes = true := by decide

theorem test_step_plp_SF7_SF8_SF9 : [
    ⟨0x0200, [0x28], [(0x01FD, 0xB5)], ⟨0x00, 0x00, 0x00, 0xFC, 0x24⟩,
      ⟨0x00, 0x00, 0x00, 0xFD, 0xA5⟩, 0x0201, [], [R 0x0200 0x28, I, I, R 0x01FD 0xB5]⟩,
    ⟨0x0200, [0x28], [(0x01FD, 0xFF)], ⟨0x00, 0x00, 0x00, 0xFC, 0x24⟩,
      ⟨0x00, 0x00, 0x00, 0xFD, 0xEF⟩, 0x0201, [], [R 0x0200 0x28, I, I, R 0x01FD 0xFF]⟩,
    ⟨0x0200, [0x28], [(0x01FD, 0x00)], ⟨0x00, 0x00, 0x00, 0xFC, 0xEF⟩,
      ⟨0x00, 0x00, 0x00, 0xFD, 0x20⟩, 0x0201, [], [R 0x0200 0x28, I, I, R 0x01FD 0x00]⟩].all StepVec.passes = true := by decide

theorem test_step_clc_SF10 : [
    ⟨0x0200, [0x18], [], ⟨0x12, 0x00, 0x00, 0x00, 0xEF⟩,
      ⟨0x12, 0x00, 0x00, 0x00, 0xEE⟩, 0x0201, [], [R 0x0200 0x18, I]⟩].all StepVec.passes = true := by decide

theorem test_step_sec_SF11 : [
    ⟨0x0200, [0x38], [], ⟨0x12, 0x00, 0x00, 0x00, 0x20⟩,
      ⟨0x12, 0x00, 0x00, 0x00, 0x21⟩, 0x0201, [], [R 0x0200 0x38, I]⟩].all StepVec.passes = true := by decide

theorem test_step_cld_SF12 : [
    ⟨0x0200, [0xD8], [], ⟨0x12, 0x00, 0x00, 0x00, 0xEF⟩,
      ⟨0x12, 0x00, 0x00, 0x00, 0xE7⟩, 0x0201, [], [R 0x0200 0xD8, I]⟩].all StepVec.passes = true := by decide

theorem test_step_sed_SF13 : [
    ⟨0x0200, [0xF8], [], ⟨0x12, 0x00, 0x00, 0x00, 0x20⟩,
      ⟨0x12, 0x00, 0x00, 0x00, 0x28⟩, 0x0201, [], [R 0x0200 0xF8, I]⟩].all StepVec.passes = true := by decide

theorem test_step_cli_SF14 : [
    ⟨0x0200, [0x58], [], ⟨0x12, 0x00, 0x00, 0x00, 0xEF⟩,
      ⟨0x12, 0x00, 0x00, 0x00, 0xEB⟩, 0x0201, [], [R 0x0200 0x58, I]⟩].all StepVec.passes = true := by decide

theorem test_step_sei_SF15 : [
    ⟨0x0200, [0x78], [], ⟨0x12, 0x00, 0x00, 0x00, 0x20⟩,
      ⟨0x12, 0x00, 0x00, 0x00, 0x24⟩, 0x0201, [], [R 0x0200 0x78, I]⟩].all StepVec.passes = true := by decide

theorem test_step_clv_SF16 : [
    ⟨0x0200, [0xB8], [], ⟨0x12, 0x00, 0x00, 0x00, 0xEF⟩,
      ⟨0x12, 0x00, 0x00, 0x00, 0xAF⟩, 0x0201, [], [R 0x0200 0xB8, I]⟩].all StepVec.passes = true := by decide

theorem test_step_nop_SF17 : [
    ⟨0x0200, [0xEA], [], ⟨0x12, 0x00, 0x00, 0x00, 0xEF⟩,
      ⟨0x12, 0x00, 0x00, 0x00, 0xEF⟩, 0x0201, [], [R 0x0200 0xEA, I]⟩].all StepVec.passes = true := by decide

/-! Interrupts, BRK, RTI, the fault and RESET: vectors X1 to X11 and S6 of 95_test_vectors.md. -/

theorem test_brk_X1_X2 :
    (shows (step (stateAt 0x8009 ⟨0x0A, 0, 0, 0xFD, 0x27⟩ [(0xFFFF, 0x90)])) 0x9000 ⟨0x0A, 0, 0, 0xFA, 0x27⟩ []
      [R 0x8009 0x00, I, W 0x01FD 0x80, W 0x01FC 0x0B, W 0x01FB 0x37, R 0xFFFE 0x00, R 0xFFFF 0x90] &&
    shows (step (stateAt 0xFFFF ⟨0, 0, 0, 0x01, 0x20⟩ [(0xFFFE, 0x34)])) 0x0034 ⟨0, 0, 0, 0xFE, 0x24⟩ []
      [R 0xFFFF 0x00, I, W 0x0101 0x00, W 0x0100 0x01, W 0x01FF 0x30, R 0xFFFE 0x34, R 0xFFFF 0x00]) = true := by decide

theorem test_rti_X9_X10 :
    (shows (step (stateAt 0x0200 ⟨0, 0, 0, 0xFA, 0xEF⟩ [(0x0200, 0x40), (0x01FB, 0x24), (0x01FD, 0x80)]))
      0x8000 ⟨0, 0, 0, 0xFD, 0x24⟩ [] [R 0x0200 0x40, I, I, R 0x01FB 0x24, R 0x01FC 0x00, R 0x01FD 0x80] &&
    shows (step (stateAt 0x0200 ⟨0, 0, 0, 0xFA, 0x24⟩ [(0x0200, 0x40), (0x01FB, 0xFF), (0x01FC, 0x0B), (0x01FD, 0x80)]))
      0x800B ⟨0, 0, 0, 0xFD, 0xEF⟩ [] [R 0x0200 0x40, I, I, R 0x01FB 0xFF, R 0x01FC 0x0B, R 0x01FD 0x80]) = true := by
  decide

theorem test_irq_entry_X3 :
    shows (step (irqSet (stateAt 0x1234 ⟨0, 0, 0, 0x01, 0xA9⟩ [(0x1234, 0xEA), (0xFFFF, 0x81)]))) 0x8100
      ⟨0, 0, 0, 0xFE, 0xAD⟩ []
      [R 0x1234 0xEA, I, W 0x0101 0x12, W 0x0100 0x34, W 0x01FF 0xA9, R 0xFFFE 0x00, R 0xFFFF 0x81] = true := by decide

theorem test_masked_irq_X4 :
    shows (step (irqSet (stateAt 0x1234 ⟨0, 0, 0, 0xFD, 0x24⟩ [(0x1234, 0xEA)]))) 0x1235 ⟨0, 0, 0, 0xFD, 0x24⟩ []
      [R 0x1234 0xEA, I] = true := by decide

theorem test_nmi_before_irq_X5 :
    shows (step (nmiReq (irqSet (stateAt 0x1234 ⟨0, 0, 0, 0xFD, 0x20⟩
        [(0x1234, 0xEA), (0xFFFB, 0x90), (0xFFFF, 0x81)])))) 0x9000 ⟨0, 0, 0, 0xFA, 0x24⟩ []
      [R 0x1234 0xEA, I, W 0x01FD 0x12, W 0x01FC 0x34, W 0x01FB 0x20, R 0xFFFA 0x00, R 0xFFFB 0x90] = true := by decide

theorem test_nmi_entry_S6 :
    shows (step (nmiReq (stateAt 0x8000 ⟨0, 0, 0, 0xFD, 0x24⟩ [(0x8000, 0xEA), (0xFFFB, 0x90)]))) 0x9000
      ⟨0, 0, 0, 0xFA, 0x24⟩ []
      [R 0x8000 0xEA, I, W 0x01FD 0x80, W 0x01FC 0x00, W 0x01FB 0x24, R 0xFFFA 0x00, R 0xFFFB 0x90] = true := by decide

/-- Whether a step faults as a vector says: the byte, the PC, the accessors left and the bus record left (X7). -/
def faultsAs (o : Host.Outcome State Fault Refusal) (byte : Byte) (pc : Nat) (r : RegVec) (trace : List BusCycle) : Bool :=
  match o with
  | .fault (.illegalOpcode b atPc left) =>
    decide (b = byte) && decide (atPc.toNat = pc) && decide (left.accessors = accessorsOf pc r 0) && decide (left.trace = trace)
  | .next _ => false
  | .refused _ => false

theorem test_illegal_opcode_X7 :
    faultsAs (step (stateAt 0x0200 ⟨1, 2, 3, 0xFD, 0x24⟩ [(0x0200, 0x02)])) 0x02 0x0200 ⟨1, 2, 3, 0xFD, 0x24⟩
      [R 0x0200 0x02] = true := by decide

theorem test_reset_X8_X11 :
    (shows (deliverReset (nmiReq (irqSet (stateAt 0x4321 ⟨0x12, 0x34, 0x56, 0x00, 0xEF⟩ [(0xFFFD, 0x80)])))) 0x8000
      ⟨0x12, 0x34, 0x56, 0xFD, 0x24⟩ [] [I, I, I, I, I, R 0xFFFC 0x00, R 0xFFFD 0x80] &&
    shows (deliverReset (stateAt 0x4321 ⟨0x12, 0x34, 0x56, 0x01, 0xEF⟩ [(0xFFFD, 0x80)])) 0x8000
      ⟨0x12, 0x34, 0x56, 0xFE, 0x24⟩ [] [I, I, I, I, I, R 0xFFFC 0x00, R 0xFFFD 0x80]) = true := by decide

/-! The program's first step (log entry 5): the bytes `withFetchWord` places run as the first instruction after reset. -/

theorem test_withFetchWord_runs_first :
    (match step (State.reset.withFetchWord 16 0x2AA9) with
      | .next t => decide (t.a = 0x2A#8 ∧ t.pc = 0x0002#16 ∧ t.result = some (.executed 0xA9#8))
      | .fault _ => false
      | .refused _ => false) = true := by decide

/-! `step_cycle` (R245): two cycle requests of a two-cycle instruction end where the step ends. -/

theorem test_stepCycle_INX :
    (match stepCycles 2 (stateAt 0x0200 ⟨0, 0x7F, 0, 0xFD, 0x24⟩ [(0x0200, 0xE8)]) with
      | .next t => decide (t.x = 0x80#8 ∧ t.pc = 0x0201#16 ∧ t.cycles = 52 ∧ t.phase = .boundary ∧ t.trace = [I])
      | .fault _ => false
      | .refused _ => false) = true := by decide

/-- NMI_REQ between the two cycles of an instruction is taken at the next boundary, not inside it (R232, R264). -/
theorem test_nmi_inside_an_instruction_waits :
    (match serveAll [.stepCycle, .nmiReq, .stepCycle, .stepInstruction]
        (stateAt 0x0200 ⟨0, 0x7F, 0, 0xFD, 0x24⟩ [(0x0200, 0xE8), (0xFFFB, 0x90)]) with
      | .next t => decide (t.x = 0x80#8 ∧ t.pc = 0x9000#16 ∧ t.cycles = 59 ∧ t.pendingNmi = false)
      | .fault _ => false
      | .refused _ => false) = true := by decide

/-! Witnesses: for every obligation with hypotheses, a concrete state and operands that meet all of them together. -/

/-- A state whose PC, operands and stack are RAM. -/
def wRam : State := stateAt 0x0201 ⟨0x91, 0x20, 0x30, 0x00, 0x65⟩ [(0x0201, 0xFF), (0x0202, 0x12), (0x0010, 0x34)]

/-- The same in decimal mode. -/
def wDecimal : State := stateAt 0x0201 ⟨0x99, 0x20, 0x30, 0xFD, 0x2D⟩ [(0x0201, 0xFF), (0x0010, 0x99)]

/-- A state with all three kinds of address (R53). -/
def wPlatform : State :=
  { wRam with bus := ⟨wRam.bus.mem, [⟨0xE000, 0x2000, .rom⟩, ⟨0xD000, 0x0010, .io⟩], 5⟩ }

/-- A state inside a two-cycle instruction. -/
def wInFlight : State := { wRam with phase := .inFlight ⟨[.idle], wRam.regs, some (.executed 0xEA#8)⟩ }

theorem witness_DecodeOfEncodeIsTheInstruction :
    (Instr.bne 127).wellFormed = true ∧ (Instr.beq (-128)).wellFormed = true ∧ (Instr.jmpInd 0xFFFF#16).wellFormed = true := by
  decide

theorem witness_EncodeOfDecodeIsTheBytes : decode [0xD0#8, 0x80#8, 0xEA#8] = .ok (.bne (-128), [0xEA#8]) := by decide

theorem witness_StepRunsTheDecodedInstruction :
    ∃ (s : State) (i : Instr), s.phase = .boundary ∧ s.pendingNmi = false ∧ (s.pendingIrq = true ∧ s.p.i = true) ∧
      Answered s.bus [.read s.pc 0xBD#8, .read (s.pc + 1) 0xF0#8, .read (s.pc + 2) 0x12#8] ∧
      decode [0xBD#8, 0xF0#8, 0x12#8] = .ok (i, []) :=
  ⟨irqSet (stateAt 0xFFFE ⟨0, 0, 0, 0, 0x24⟩ [(0xFFFE, 0xBD), (0xFFFF, 0xF0), (0x0000, 0x12)]), .ldaAbsx 0x12F0#16,
    rfl, rfl, by decide, ⟨by decide, by decide, by decide, trivial⟩, by decide⟩

theorem witness_IllegalOpcodeFaultsWithByteAndPc :
    ∃ s : State, s.phase = .boundary ∧ s.pendingNmi = false ∧ (s.pendingIrq = false ∨ s.p.i = true) ∧
      s.bus.value s.pc ∈ illegalOpcodeBytes ∧ s.bus.kindAt s.pc ≠ .io :=
  ⟨wRam, rfl, rfl, by decide, by decide, by decide⟩

theorem witness_StepStopsOnlyOnIllegalOpcodeOrOutsideABoundary :
    (∃ left, step wRam = .fault (.illegalOpcode 0xFF#8 0x0201#16 left)) ∧
    step (State.powerOn wRam.regs wRam.bus) = .refused .stepBeforeReset ∧
    step wInFlight = .refused .instructionInFlight :=
  ⟨⟨_, rfl⟩, rfl, rfl⟩

theorem witness_InterruptEntryOfNmiAndIrq :
    (∃ s : State, s.phase = .boundary ∧ s.bus.mem.wf = true ∧ s.pendingNmi = true ∧ s.pendingIrq = true ∧ s.p.i = false) ∧
    ∃ s : State, s.phase = .boundary ∧ s.bus.mem.wf = true ∧
      s.pendingNmi = false ∧ s.pendingIrq = true ∧ s.p.i = false :=
  ⟨⟨nmiReq (irqSet { wPlatform with p := ⟨true, true, true, false, true, true⟩ }), rfl, by decide, rfl, rfl, rfl⟩,
    irqSet { wPlatform with p := ⟨true, true, true, false, true, true⟩ }, rfl, by decide, rfl, rfl, rfl⟩

theorem witness_InterruptsAreTakenExactlyWhenPending :
    (∃ t, step (nmiReq wPlatform) = .next t) ∧
      ∃ t, step (irqSet { wPlatform with p := ⟨true, true, true, false, true, true⟩ }) = .next t := ⟨⟨_, rfl⟩, _, rfl⟩

theorem witness_ResetSequence :
    wRam.phase = .boundary ∧ (State.powerOn wRam.regs wRam.bus).phase = .beforeReset := ⟨rfl, rfl⟩

theorem witness_StepKeepsTheInvariant :
    ∃ s t : State, s.Inv ∧ step s = .next t :=
  ⟨stateAt 0x0200 ⟨0, 0, 0, 0, 0x24⟩ [(0x0200, 0x48)], _, ⟨by decide, fun _ h => by cases h⟩, rfl⟩

theorem witness_EveryRequestKeepsTheInvariant :
    (∃ s t : State, s.Inv ∧ serve .stepCycle s = .next t) ∧
    (∃ s t : State, s.Inv ∧ serve (.load 0xFFFF#16 0x80#8) s = .next t) ∧
    ∃ s left : State, s.Inv ∧ serve .stepCycle s = .fault (.illegalOpcode 0xFF#8 0x0201#16 left) :=
  ⟨⟨wInFlight, _, ⟨by decide, fun f h => by cases h; decide⟩, rfl⟩, ⟨wRam, _, ⟨by decide, fun _ h => by cases h⟩, rfl⟩,
    wRam, _, ⟨by decide, fun _ h => by cases h⟩, rfl⟩

theorem witness_AccessorPAndStackPage :
    wPlatform.phase = .boundary ∧ (State.powerOn wRam.regs wRam.bus).phase = .beforeReset := ⟨rfl, rfl⟩

theorem witness_BusReadsAndWrites :
    wPlatform.bus.mem.wf = true ∧ wPlatform.bus.kindAt 0x0000#16 = .ram ∧ wPlatform.bus.kindAt 0xFFFF#16 = .rom ∧
      wPlatform.bus.kindAt 0xD000#16 = .io ∧ wPlatform.bus.kindAt 0xD010#16 = .ram ∧ (0xD010#16 : Word) ≠ 0xD000#16 := by
  decide

theorem witness_OperandByteIsTheBusAnswerAtTheEffectiveAddress :
    (∃ op, (Operand.imm 0xFF#8) = .imm op) ∧ ∀ op, (Operand.izy 0xFF#8) ≠ .imm op :=
  ⟨⟨_, rfl⟩, by intro op h; cases h⟩

theorem witness_LoadsTakeTheOperandByteAndSetZN :
    (Instr.ldaIzy 0xFF#8).form = .mem (.izy 0xFF#8) ∧ (Instr.ldaIzy 0xFF#8).mnemonic ∈ [Mnemonic.lda, .ldx, .ldy] ∧
      (Instr.ldxZpy 0x10#8).form = .mem (.zpy 0x10#8) ∧ (Instr.ldxZpy 0x10#8).mnemonic ∈ [Mnemonic.lda, .ldx, .ldy] ∧
      (Instr.ldyImm 0x00#8).form = .mem (.imm 0x00#8) ∧ (Instr.ldyImm 0x00#8).mnemonic ∈ [Mnemonic.lda, .ldx, .ldy] := by
  decide

theorem witness_StoresWriteTheRegisterAtTheEffectiveAddress :
    (Instr.staAbsx 0xFFF0#16).form = .mem (.absx 0xFFF0#16) ∧
      (Instr.staAbsx 0xFFF0#16).mnemonic ∈ [Mnemonic.sta, .stx, .sty] ∧
      (Instr.stxZpy 0xFF#8).form = .mem (.zpy 0xFF#8) ∧ (Instr.stxZpy 0xFF#8).mnemonic ∈ [Mnemonic.sta, .stx, .sty] ∧
      (Instr.styZp 0x00#8).form = .mem (.zp 0x00#8) ∧ (Instr.styZp 0x00#8).mnemonic ∈ [Mnemonic.sta, .stx, .sty] ∧
      wPlatform.bus.mem.wf = true := by
  decide

theorem witness_AdcBinaryAndDecimal :
    (Instr.adcZp 0x10#8).form = .mem (.zp 0x10#8) ∧ (Instr.adcZp 0x10#8).mnemonic = .adc ∧ wRam.p.d = false ∧
      wDecimal.p.d = true := by
  decide

theorem witness_SbcBinaryAndDecimal :
    (Instr.sbcImm 0xFF#8).form = .mem (.imm 0xFF#8) ∧ (Instr.sbcImm 0xFF#8).mnemonic = .sbc ∧ wRam.p.d = false ∧
      wDecimal.p.d = true := by
  decide

theorem witness_DecimalAdcAddsBcdNumbers : 99 < 100 ∧ 0 < 100 ∧ wDecimal.p.d = true := by decide

theorem witness_DecimalSbcSubtractsBcdNumbers : 0 < 100 ∧ 99 < 100 ∧ wDecimal.p.d = true := by decide

theorem witness_LogicOperationsOnTheAccumulator :
    (Instr.andAbs 0xFFFF#16).form = .mem (.abs 0xFFFF#16) ∧
      (Instr.andAbs 0xFFFF#16).mnemonic ∈ [Mnemonic.and, .ora, .eor] ∧
      (Instr.oraIzx 0xFF#8).form = .mem (.izx 0xFF#8) ∧ (Instr.oraIzx 0xFF#8).mnemonic ∈ [Mnemonic.and, .ora, .eor] ∧
      (Instr.eorImm 0xFF#8).form = .mem (.imm 0xFF#8) ∧ (Instr.eorImm 0xFF#8).mnemonic ∈ [Mnemonic.and, .ora, .eor] := by
  decide

theorem witness_IncAndDecOfMemory :
    (Instr.incAbsx 0xFFFF#16).form = .mem (.absx 0xFFFF#16) ∧ (Instr.incAbsx 0xFFFF#16).mnemonic ∈ [Mnemonic.inc, .dec] ∧
      (Instr.decZp 0x00#8).form = .mem (.zp 0x00#8) ∧ (Instr.decZp 0x00#8).mnemonic ∈ [Mnemonic.inc, .dec] ∧
      wRam.bus.mem.wf = true := by
  decide

theorem witness_ShiftsOfTheAccumulatorAndOfMemory :
    (Instr.aslAcc.form = .acc ∧ Instr.lsrAcc.form = .acc ∧ Instr.rolAcc.form = .acc ∧ Instr.rorAcc.form = .acc) ∧
      (Instr.aslZpx 0xFF#8).form = .mem (.zpx 0xFF#8) ∧ (Instr.aslZpx 0xFF#8).mnemonic ∈ [Mnemonic.asl, .lsr, .rol, .ror] ∧
      (Instr.rorAbsx 0xFF00#16).form = .mem (.absx 0xFF00#16) ∧
      (Instr.rorAbsx 0xFF00#16).mnemonic ∈ [Mnemonic.asl, .lsr, .rol, .ror] ∧ wPlatform.bus.mem.wf = true := by
  decide

theorem witness_ComparesSetCarryZeroNegative :
    (Instr.cmpIzy 0xFF#8).form = .mem (.izy 0xFF#8) ∧ (Instr.cmpIzy 0xFF#8).mnemonic ∈ [Mnemonic.cmp, .cpx, .cpy] ∧
      (Instr.cpxAbs 0x0010#16).form = .mem (.abs 0x0010#16) ∧
      (Instr.cpxAbs 0x0010#16).mnemonic ∈ [Mnemonic.cmp, .cpx, .cpy] ∧
      (Instr.cpyImm 0x30#8).form = .mem (.imm 0x30#8) ∧ (Instr.cpyImm 0x30#8).mnemonic ∈ [Mnemonic.cmp, .cpx, .cpy] := by
  decide

theorem witness_BitTestsTheOperand :
    (Instr.bitAbs 0xD000#16).form = .mem (.abs 0xD000#16) ∧ (Instr.bitAbs 0xD000#16).mnemonic = .bit := by decide

theorem witness_BranchesGoToTheSignedOffset :
    (Instr.bne (-128)).form = .rel (-128) ∧ (Instr.bne (-128)).wellFormed = true ∧ branchTaken .bne wRam.p = true ∧
      (Instr.beq 127).form = .rel 127 ∧ (Instr.beq 127).wellFormed = true ∧ branchTaken .beq wRam.p = false := by
  decide

theorem witness_JsrPushesThenReadsTheHighByte : wRam.bus.mem.wf = true ∧ wRam.sp = 0x00#8 := by decide

theorem witness_PhaAndPhpPush :
    wRam.bus.mem.wf = true ∧ Instr.pha ∈ [Instr.pha, .php] ∧ Instr.php ∈ [Instr.pha, .php] := by decide

theorem witness_PlaAndPlpPull : Instr.pla ∈ [Instr.pla, .plp] ∧ Instr.plp ∈ [Instr.pla, .plp] := by decide

theorem witness_BrkEntersTheHandler : wPlatform.bus.mem.wf = true := by decide

theorem witness_PushThenPullRestores :
    ∃ s t t' : State, s.bus.mem.wf = true ∧ StackIsRam s ∧ t'.bus.platform = s.bus.platform ∧ t'.sp = s.sp - 1 ∧
      t'.peek (stackAddr s.sp) = t.peek (stackAddr s.sp) ∧ exec .pha s = .next t :=
  ⟨wRam, _, push wRam.a (idle wRam), by decide, fun _ => rfl, rfl, rfl, rfl, rfl⟩

theorem witness_PushThenPullRestores_php :
    ∃ s t t' : State, s.bus.mem.wf = true ∧ StackIsRam s ∧ t'.bus.platform = s.bus.platform ∧ t'.sp = s.sp - 1 ∧
      t'.peek (stackAddr s.sp) = t.peek (stackAddr s.sp) ∧ exec .php s = .next t :=
  ⟨wRam, _, push wRam.p.packPhp (idle wRam), by decide, fun _ => rfl, rfl, rfl, rfl, rfl⟩

theorem witness_RtsReturnsPastTheJsr :
    ∃ s t t' : State, s.bus.mem.wf = true ∧ StackIsRam s ∧ exec (.jsr 0x12FF#16) s = .next t ∧
      t'.bus.platform = s.bus.platform ∧ t'.sp = t.sp ∧ t'.peek (stackAddr s.sp) = t.peek (stackAddr s.sp) ∧
      t'.peek (stackAddr (s.sp - 1)) = t.peek (stackAddr (s.sp - 1)) :=
  ⟨wRam, jumpToSubroutine 0x12FF#16 wRam, jumpToSubroutine 0x12FF#16 wRam, by decide, fun _ => rfl, rfl, rfl, rfl, rfl,
    rfl⟩

/-- The stack page of a handler that has pushed and pulled a byte below its frame, at `$01FC`. -/
def wHandler (t : State) : State := { t with bus := t.bus.perform (W 0x01FC 0x5A) }

theorem witness_RtiUndoesInterruptEntryAndBrk :
    ∃ s t t' : State, s.bus.mem.wf = true ∧ StackIsRam s ∧ t'.bus.platform = s.bus.platform ∧ t'.sp = t.sp ∧
      (∀ sp ∈ [s.sp, s.sp - 1, s.sp - 2], t'.peek (stackAddr sp) = t.peek (stackAddr sp)) ∧
      (∃ sp, t'.peek (stackAddr sp) ≠ t.peek (stackAddr sp)) ∧ exec .brk s = .next t :=
  ⟨wRam, brkEntry wRam, wHandler (brkEntry wRam), by decide, fun _ => rfl, rfl, rfl, by decide, ⟨0xFC, by decide⟩, rfl⟩

theorem witness_RtiUndoesInterruptEntryAndBrk_entry :
    ∃ s t t' : State, s.bus.mem.wf = true ∧ StackIsRam s ∧ t'.bus.platform = s.bus.platform ∧ t'.sp = t.sp ∧
      (∀ sp ∈ [s.sp, s.sp - 1, s.sp - 2], t'.peek (stackAddr sp) = t.peek (stackAddr sp)) ∧
      (∃ sp, t'.peek (stackAddr sp) ≠ t.peek (stackAddr sp)) ∧ ∃ source, t = serviceInterrupt source s :=
  ⟨wRam, serviceInterrupt .nmi wRam, wHandler (serviceInterrupt .nmi wRam), by decide, fun _ => rfl, rfl, rfl, by decide,
    ⟨0xFC, by decide⟩, .nmi, rfl⟩

theorem witness_EveryInstructionTakesItsCycles : ∃ t, exec (.ldaIzy 0x10#8) wRam = .next t := ⟨_, rfl⟩

/-- A state in which PLP changes all six flags. -/
def wPull : State := stateAt 0x0201 ⟨0x99, 0x20, 0x30, 0xFD, 0x2D⟩ [(0x01FE, 0xC2)]

theorem witness_FlagsHaveOnlyTheListedWriters :
    ∃ t, exec .plp wPull = .next t ∧ t.p.n ≠ wPull.p.n ∧ t.p.z ≠ wPull.p.z ∧ t.p.v ≠ wPull.p.v ∧ t.p.d ≠ wPull.p.d ∧
      t.p.i ≠ wPull.p.i ∧ t.p.c ≠ wPull.p.c :=
  ⟨_, rfl, by decide, by decide, by decide, by decide, by decide, by decide⟩

theorem witness_RegistersHaveOnlyTheListedWriters :
    (∃ t, exec .pla wPull = .next t ∧ t.a ≠ wPull.a ∧ t.sp ≠ wPull.sp) ∧
    (∃ t, exec .tsx wPull = .next t ∧ t.x ≠ wPull.x) ∧ (∃ t, exec .tay wPull = .next t ∧ t.y ≠ wPull.y) ∧
    ∃ t, exec (.jmpAbs 0xFFFF#16) wPull = .next t ∧
      t.pc ≠ wPull.pc + BitVec.ofNat 16 (encode (.jmpAbs 0xFFFF#16)).length - 1 :=
  ⟨⟨_, rfl, by decide, by decide⟩, ⟨_, rfl, by decide⟩, ⟨_, rfl, by decide⟩, ⟨_, rfl, by decide⟩⟩

theorem witness_MemoryHasOnlyTheListedWriters :
    ∃ t, exec .pha wRam = .next t ∧ t.peek 0x0100#16 ≠ wRam.peek 0x0100#16 := ⟨_, rfl, by decide⟩

theorem witness_StepIsTwoToSevenAnsweredCycles :
    ∃ t, step (stateAt 0xFFFF ⟨0, 0, 0, 0, 0x20⟩ [(0xFFFF, 0x1E), (0x0001, 0xFF)]) = .next t ∧ t.trace.length = 7 :=
  ⟨_, rfl, by decide⟩

theorem witness_StepCyclesRefineTheStep :
    ∃ t, step (nmiReq wPlatform) = .next t ∧ t.trace.length = 7 := ⟨_, rfl, by decide⟩

theorem witness_InputEventsInsideAnInstructionOnlySetPendingBits :
    ∃ (s : State) (f : InFlight), s.phase = .inFlight f ∧ f.todo = [.idle] :=
  ⟨wInFlight, _, rfl, rfl⟩

end Sys2Proof.Tests
end

/-! Every instruction completes, in the cycles of its row (60_exceptions.md R241; 70_reset_and_hazards.md R266). -/

namespace Sys2Proof.Machine

open Sys2Proof Sys2Proof.Laws

/-- The instruction answers a next state, with its control fields kept and its cycles spent. -/
def RunsToItsEnd (i : Instr) (s : State) : Prop := ∃ t, exec i s = .next t ∧ ControlKept s t ∧ Costs i s t

/-- Bus cycles never remap the platform, so the four plain fields decide `ControlKept`. -/
theorem Performed.controlKept {cs : List BusCycle} {s t : State} (h : Performed cs s t)
    (hn : t.pendingNmi = s.pendingNmi) (hi : t.pendingIrq = s.pendingIrq) (hp : t.phase = s.phase)
    (hr : t.result = s.result) : ControlKept s t := ⟨hn, hi, hp, h.platform, hr⟩

theorem writeOperand_controlKept (o : Operand) (v : Byte) (s : State) : ControlKept s (writeOperand o v s) :=
  (performed_writeOperand o v s).controlKept (by simp [writeOperand]) (by simp [writeOperand]) (by simp [writeOperand])
    (by simp [writeOperand])

theorem modifyOperand_controlKept (f : Byte → Flags → Byte × Flags) (o : Operand) (s : State) :
    ControlKept s (modifyOperand f o s) :=
  (performed_modifyOperand f o s).controlKept (by simp [modifyOperand]) (by simp [modifyOperand])
    (by simp [modifyOperand]) (by simp [modifyOperand])

/-! The access classes of R95, for the lists of mnemonics that `mnemonic_of_mem` gives. -/

theorem accessClassOf_read : ∀ m ∈ [Mnemonic.lda, .ldx, .ldy, .adc, .sbc, .and, .ora, .eor, .cmp, .cpx, .cpy, .bit],
    accessClassOf m = some .read := by decide

theorem accessClassOf_write : ∀ m ∈ [Mnemonic.sta, .stx, .sty], accessClassOf m = some .write := by decide

theorem accessClassOf_rmw : ∀ m ∈ [Mnemonic.inc, .dec, .asl, .lsr, .rol, .ror], accessClassOf m = some .rmw := by decide

/-- Costs of a rule that no page cross and no branch can lengthen. -/
theorem costs_of_no_penalty {i : Instr} {s t : State} {cs : List BusCycle} (h : Performed cs s t)
    (hp : Instr.penalty i s = 0) (hl : 1 + cs.length = cyclesOf i) : Costs i s t :=
  ⟨_, cs, (instr_tableRow i).1, h, by rw [hp]; exact hl⟩

theorem runsToItsEnd_jmpAbs (addr : Word) (s : State) : RunsToItsEnd (.jmpAbs addr) s := by
  have h : Performed _ s ((fetchWord addr s).setPc addr) := performed_fetchWord addr s
  exact ⟨_, rfl, h.controlKept rfl rfl rfl rfl, costs_of_no_penalty h rfl rfl⟩

theorem runsToItsEnd_jsr (addr : Word) (s : State) : RunsToItsEnd (.jsr addr) s :=
  ⟨_, rfl, (jumpToSubroutine_frame addr s).2.2, costs_of_no_penalty (performed_jumpToSubroutine addr s) rfl rfl⟩

theorem runsToItsEnd_mem {i : Instr} {o : Operand} (s : State) (hf : i.form = .mem o) : RunsToItsEnd i s := by
  rcases mnemonic_of_mem hf with hm | hm | hm | ⟨addr, rfl | rfl⟩
  · obtain ⟨a, x, y, p, he⟩ := exec_readClass s hf hm
    obtain ⟨-, -, -, hk, hc, -⟩ := readsOperand_of_read s hf (accessClassOf_read _ hm) a x y p
    exact ⟨_, he, hk, hc⟩
  · obtain ⟨v, he⟩ := exec_writeClass s hf hm
    have hi (op : Byte) : o ≠ .imm op := not_imm_of_writes hf (List.mem_append_left _ hm) op
    exact ⟨_, he, writeOperand_controlKept o v s, costs_of_mem hf (accessClassOf_write _ hm)
      (fun op h => absurd h (hi op)) (performed_writeOperand o v s) rfl⟩
  · obtain ⟨f, he⟩ := exec_rmwClass s hf hm
    have hi (op : Byte) : o ≠ .imm op := not_imm_of_writes hf (List.mem_append_right [Mnemonic.sta, .stx, .sty] hm) op
    exact ⟨_, he, modifyOperand_controlKept f o s, costs_of_mem hf (accessClassOf_rmw _ hm)
      (fun op h => absurd h (hi op)) (performed_modifyOperand f o s) rfl⟩
  · exact runsToItsEnd_jmpAbs addr s
  · exact runsToItsEnd_jsr addr s

theorem cyclesOf_rel {i : Instr} {offset : Int} (hf : i.form = .rel offset) : cyclesOf i = 2 := by
  cases i <;> cases hf <;> rfl

theorem cyclesOf_acc {i : Instr} (hf : i.form = .acc) : cyclesOf i = 2 := by
  cases i <;> cases hf <;> rfl

theorem runsToItsEnd_rel {i : Instr} {offset : Int} (s : State) (hf : i.form = .rel offset) : RunsToItsEnd i s := by
  obtain ⟨-, -, hk, -⟩ := branch_frame (branchTaken i.mnemonic s.p) offset s
  refine ⟨_, exec_branch s hf, hk, _, _, (instr_tableRow i).1, performed_branch _ offset s, ?_⟩
  simp only [cyclesOf_rel hf, Instr.penalty, hf, branchIdles, List.length_cons]
  cases branchTaken i.mnemonic s.p <;> cases (resolveRelative offset s).crossed <;> rfl

theorem runsToItsEnd_jmpInd (ptr : Word) (s : State) : RunsToItsEnd (.jmpInd ptr) s := by
  obtain ⟨lo, hi, -, h, -⟩ := performed_jumpIndirect ptr s
  exact ⟨_, rfl, h.controlKept (by simp [jumpIndirect, resolveIndirect]) (by simp [jumpIndirect, resolveIndirect])
    (by simp [jumpIndirect, resolveIndirect]) (by simp [jumpIndirect, resolveIndirect]), costs_of_no_penalty h rfl rfl⟩

theorem runsToItsEnd_acc {i : Instr} (s : State) (hf : i.form = .acc) : RunsToItsEnd i s := by
  have ⟨f, he⟩ : ∃ f, exec i s = .next (modifyAccumulator f s) := by
    rcases exec_acc s hf with ⟨-, h⟩ | ⟨-, h⟩ | ⟨-, h⟩ | ⟨-, h⟩ <;> exact ⟨_, h⟩
  have h : Performed [.idle] s (modifyAccumulator f s) := performed_idle s
  exact ⟨_, he, h.controlKept rfl rfl rfl rfl, costs_of_no_penalty h (by simp [Instr.penalty, hf])
    (cyclesOf_acc hf).symm⟩

/-- The implied-mode instructions that only move registers: the fetch and one idle cycle. -/
theorem ruleCycles_register : ∀ m ∈ [Mnemonic.tax, .tay, .tsx, .txa, .tya, .txs, .inx, .iny, .dex, .dey, .clc, .sec,
    .cld, .sed, .cli, .sei, .clv, .nop], ruleCycles m = 2 := by decide

theorem performed_idle_push (v : Byte) (s : State) : Performed [.idle, .write (stackAddr s.sp) v] s (push v (idle s)) :=
  (performed_idle s).trans (performed_push v (idle s))

theorem runsToItsEnd_imp {i : Instr} (s : State) (hf : i.form = .imp) : RunsToItsEnd i s := by
  rcases exec_imp s hf with ⟨hm, r, he⟩ | rfl | rfl | rfl | rfl | rfl | rfl | rfl
  · have h : Performed [.idle] s ((idle s).setRegs r) := performed_idle s
    have hc : cyclesOf i = 2 := by simp only [cyclesOf, hf, ruleCycles_register _ hm]
    exact ⟨_, he, h.controlKept rfl rfl rfl rfl, costs_of_no_penalty h (by simp [Instr.penalty, hf]) hc.symm⟩
  · have h := performed_idle_push s.a s
    exact ⟨_, rfl, h.controlKept rfl rfl rfl rfl, costs_of_no_penalty h rfl rfl⟩
  · have h := performed_idle_push s.p.packPhp s
    exact ⟨_, rfl, h.controlKept rfl rfl rfl rfl, costs_of_no_penalty h rfl rfl⟩
  · have h : Performed _ s (pullA s) := (ran_idle2_pull s).1
    exact ⟨_, rfl, h.controlKept rfl rfl rfl rfl, costs_of_no_penalty h rfl rfl⟩
  · have h : Performed _ s (pullP s) := (ran_idle2_pull s).1
    exact ⟨_, rfl, h.controlKept rfl rfl rfl rfl, costs_of_no_penalty h rfl rfl⟩
  · obtain ⟨lo, hi, h, -, -, -, hk⟩ := returnFromSubroutine_spec s
    exact ⟨_, rfl, hk, costs_of_no_penalty h.1 rfl rfl⟩
  · obtain ⟨v, lo, hi, h, -, -, -, -, hk⟩ := returnFromInterrupt_spec s
    exact ⟨_, rfl, hk, costs_of_no_penalty h.1 rfl rfl⟩
  · obtain ⟨lo, hi, h, -, -, -, -, hk⟩ := brkEntry_spec s
    exact ⟨_, rfl, hk, costs_of_no_penalty h.1 rfl rfl⟩

theorem exec_runsToItsEnd (i : Instr) (s : State) : RunsToItsEnd i s := by
  cases hf : i.form with
  | mem o => exact runsToItsEnd_mem s hf
  | rel offset => exact runsToItsEnd_rel s hf
  | ind ptr => exact eq_jmpInd_of_form hf ▸ runsToItsEnd_jmpInd ptr s
  | acc => exact runsToItsEnd_acc s hf
  | imp => exact runsToItsEnd_imp s hf

/-! A step is 2 to 7 cycles (70_reset_and_hazards.md R267). -/

/-- The most cycles that a page cross or a taken branch adds to a row of the table (R96, R180). -/
def mostPenalty (e : Entry) : Nat := if e.mode = .rel then 2 else if e.pageCrossAdds then 1 else 0

theorem penalty_le_mostPenalty {i : Instr} {e : Entry} (he : dispatchTable i.opcode = some e) (s : State) :
    Instr.penalty i s ≤ mostPenalty e := by
  have hm : e.mode = i.form.mode := by
    rw [(instr_tableRow i).1, Option.some_inj] at he
    rw [← he]
  have hc : Instr.pageCrossAdds i = e.pageCrossAdds := by rw [Instr.pageCrossAdds, he, Option.any_some]
  cases hf : i.form with
  | mem o =>
    have hr : o.mode ≠ .rel := by cases o <;> simp [Operand.mode]
    simp only [Instr.penalty, mostPenalty, hf, hm, Form.mode, hr, hc, if_false]
    cases e.pageCrossAdds <;> cases (resolve o .read s).crossed <;> decide
  | rel offset =>
    simp only [Instr.penalty, mostPenalty, hf, hm, Form.mode, if_true]
    cases branchTaken i.mnemonic s.p <;> cases (resolveRelative offset s).crossed <;> decide
  | imp | acc | ind _ => simp [Instr.penalty, hf]

theorem dispatchRows_cycles :
    ∀ r ∈ dispatchRows, 2 ≤ r.2.baseCycles ∧ r.2.baseCycles + mostPenalty r.2 ≤ 7 := by
  simp only [dispatchRows, List.forall_mem_append]
  refine ⟨⟨⟨⟨⟨⟨⟨?_, ?_⟩, ?_⟩, ?_⟩, ?_⟩, ?_⟩, ?_⟩, ?_⟩ <;> decide

theorem dispatchTable_cycles {opc : Byte} {e : Entry} (h : dispatchTable opc = some e) :
    2 ≤ e.baseCycles ∧ e.baseCycles + mostPenalty e ≤ 7 := by
  obtain ⟨l₁, l₂, hl, -⟩ := List.lookup_eq_some_iff.1 h
  exact dispatchRows_cycles (opc.toNat, e) (by simp [hl])

/-- After its opcode fetch an instruction takes 1 to 6 cycles. -/
theorem Costs.one_to_six {i : Instr} {s t : State} (h : Costs i s t) :
    ∃ cs, Performed cs s t ∧ 1 ≤ cs.length ∧ cs.length ≤ 6 := by
  obtain ⟨e, cs, he, hp, hl⟩ := h
  have := dispatchTable_cycles he
  have := penalty_le_mostPenalty he s
  exact ⟨cs, hp, by omega, by omega⟩

theorem interruptEntry_seven (vec : Word) (s : State) :
    ∃ cs, Performed cs s (interruptEntry vec s) ∧ cs.length = 7 ∧ (interruptEntry vec s).phase = s.phase := by
  obtain ⟨_, _, _, ⟨h, -⟩, -, -, -, -, -, -, hp, -, -⟩ := interruptEntry_spec vec s
  exact ⟨_, h, rfl, hp⟩

/-- An interrupt entry is seven cycles and leaves the phase (R235). -/
theorem serviceInterrupt_seven (source : InterruptSource) (s : State) :
    ∃ cs, Performed cs s (serviceInterrupt source s) ∧ cs.length = 7 ∧
      (serviceInterrupt source s).phase = s.phase := by
  cases source with
  | nmi => exact interruptEntry_seven nmiVector ((s.setPendingNmi false).setResult (some (.interrupt .nmi)))
  | irq => exact interruptEntry_seven irqVector (s.setResult (some (.interrupt .irq)))

theorem performed_opcodeFetched (s : State) : Performed [.read s.pc (opcodeByte s)] s (opcodeFetched s) :=
  performed_fetchByte (opcodeByte s) s

/-- What a completed step leaves: its record is the 2 to 7 cycles the bus saw, at an instruction boundary. -/
theorem step_two_to_seven {s t : State} (h : step s = .next t) :
    Performed t.trace s.begin t ∧ 2 ≤ t.trace.length ∧ t.trace.length ≤ 7 ∧ t.phase = .boundary := by
  have ⟨cs, hp, h2, h7, hb⟩ :
      ∃ cs, Performed cs s.begin t ∧ 2 ≤ cs.length ∧ cs.length ≤ 7 ∧ t.phase = .boundary := by
    obtain ⟨hb, ⟨source, -, rfl⟩ | ⟨-, i, -, he⟩⟩ := step_cases h
    · obtain ⟨cs, hp, hl, hph⟩ := serviceInterrupt_seven source s.begin
      exact ⟨cs, hp, by omega, by omega, hph.trans hb⟩
    · obtain ⟨u, hu, ⟨-, -, hph, -, -⟩, hc⟩ := exec_runsToItsEnd i (opcodeFetched s.begin)
      obtain rfl : u = t := Host.Outcome.next.inj (hu.symm.trans he)
      obtain ⟨cs, hp, h1, h6⟩ := hc.one_to_six
      exact ⟨_, (performed_opcodeFetched s.begin).trans hp, by simpa using h1, by simpa using Nat.lt_succ_of_le h6,
        hph.trans hb⟩
  have ht : t.trace = cs := hp.1
  exact ht ▸ ⟨hp, h2, h7, hb⟩

/-! The invariant. -/

theorem inv_of_boundary {s : State} (hm : s.bus.mem.wf = true) (hp : s.phase = .boundary) : s.Inv :=
  ⟨hm, fun f hf => by rw [hp] at hf; cases hf⟩

theorem step_keeps_inv {s t : State} (hi : s.Inv) (h : step s = .next t) : t.Inv := by
  obtain ⟨hp, -, -, hb⟩ := step_two_to_seven h
  exact inv_of_boundary (hp.wf hi.1) hb

/-- A cycle request that performs the head of at most seven cycles leaves at most six. -/
theorem continueFlight_inv {f : InFlight} {s : State} (hm : s.bus.mem.wf = true) (hl : f.todo.length ≤ 7) :
    (continueFlight f s).Inv := by
  have hc (c : BusCycle) : (s.begin.cycle c).bus.mem.wf = true := Bus.perform_wf c hm
  obtain ⟨todo, regs, result⟩ := f
  rcases todo with _ | ⟨c, _ | ⟨d, rest⟩⟩
  · exact inv_of_boundary hm rfl
  · exact inv_of_boundary (hc c) rfl
  · refine ⟨hc c, fun g hg => ?_⟩
    obtain rfl : _ = g := Phase.inFlight.inj hg
    simp only [List.length_cons] at hl ⊢
    omega

theorem stepCycle_keeps_inv {s t : State} (hi : s.Inv) (h : stepCycle s = .next t) : t.Inv := by
  rcases stepCycle_cases h with ⟨f, hf, rfl⟩ | ⟨u, -, hu, rfl⟩
  · have := (hi.2 f hf).2
    exact continueFlight_inv hi.1 (by omega)
  · obtain ⟨-, -, hl, -⟩ := step_two_to_seven hu
    exact continueFlight_inv hi.1 hl

/-- A cycle request faults only where it begins an instruction, with the fault of the step (R239, R245). -/
theorem stepCycle_fault {s : State} {r : Fault} (h : stepCycle s = .fault r) : step s = .fault r := by
  unfold stepCycle at h
  split at h
  · cases h
  · cases h
  · split at h
    · cases h
    · rename_i hs
      rw [hs, Host.Outcome.fault.inj h]
    · cases h

theorem step_fault_inv {s left : State} {byte : Byte} {pc : Word} (hi : s.Inv)
    (h : step s = .fault (.illegalOpcode byte pc left)) : left.Inv := by
  obtain ⟨hp, -, -, he⟩ := step_fault h
  cases he
  exact inv_of_boundary (Bus.perform_wf _ hi.1) hp

theorem deliverReset_keeps_inv {s t : State} (hi : s.Inv) (h : deliverReset s = .next t) : t.Inv := by
  have ht : t = (resetSequence s.begin).setPhase .boundary := by
    unfold deliverReset at h
    split at h <;> cases h <;> rfl
  subst ht
  exact inv_of_boundary ((ran_resetSequence s.begin).1.wf hi.1) rfl

theorem loadByte_keeps_inv {addr : Word} {v : Byte} {s t : State} (hi : s.Inv) (h : loadByte addr v s = .next t) :
    t.Inv := by
  have ht : t = s.setBus (s.bus.load addr v) := by
    unfold loadByte at h
    split at h <;> cases h <;> rfl
  subst ht
  exact ⟨Bus.load_wf addr v hi.1, hi.2⟩

theorem serve_keeps_inv {q : Request} {s t : State} (hi : s.Inv) (h : serve q s = .next t) : t.Inv := by
  cases q with
  | stepInstruction => exact step_keeps_inv hi h
  | stepCycle => exact stepCycle_keeps_inv hi h
  | reset => exact deliverReset_keeps_inv hi h
  | load addr v => exact loadByte_keeps_inv hi h
  | nmiReq | irqSet | irqClear =>
    -- an input event writes a pending bit, of which the invariant does not speak
    cases h
    exact hi

/-- Only a step request faults. -/
theorem serve_fault {q : Request} {s : State} {r : Fault} (h : serve q s = .fault r) : step s = .fault r := by
  cases q with
  | stepInstruction => exact h
  | stepCycle => exact stepCycle_fault h
  | reset => simp only [serve, deliverReset] at h; split at h <;> cases h
  | load addr v => simp only [serve, loadByte] at h; split at h <;> cases h
  | nmiReq | irqSet | irqClear => cases h

/-- Settles O17: a step leaves a boundary, a cycle request at most six of a step's seven cycles, and no request breaks the
canonical form of memory. -/
theorem everyRequestKeepsTheInvariant : Obligations.EveryRequestKeepsTheInvariant :=
  fun _ _ hi => ⟨fun _ h => serve_keeps_inv hi h, fun _ _ _ h => step_fault_inv hi (serve_fault h)⟩

/-! The accessors. -/

/-- The packed view as a number: each flag at its bit, bit 5 as 1 and bit 4 as 0 (R24). -/
theorem pack_toNat (p : Flags) :
    p.pack.toNat = 128 * p.n.toNat + 64 * p.v.toNat + 32 + 8 * p.d.toNat + 4 * p.i.toNat + 2 * p.z.toNat + p.c.toNat := by
  obtain ⟨n, v, d, i, z, c⟩ := p
  revert n v d i z c
  decide

theorem accessors_of_not_inFlight {s : State} (h : s.phase = .boundary ∨ s.phase = .beforeReset) :
    s.accessors = ⟨s.a, s.x, s.y, s.sp, s.pc, s.p.pack, s.cycles⟩ := by
  rcases h with h | h <;> simp only [State.accessors, h]

/-- Settles O18. -/
theorem accessorPAndStackPage : Obligations.AccessorPAndStackPage := by
  intro s
  have hs : (stackAddr s.sp).toNat = 0x100 + s.sp.toNat := stackAddr_toNat s.sp
  have := s.sp.isLt
  refine ⟨fun h => ?_, pack_toNat s.p, hs, by omega, by omega⟩
  rw [accessors_of_not_inFlight h]
  exact ⟨pack_toNat s.p, rfl, rfl, rfl, rfl, rfl, rfl⟩

end Sys2Proof.Machine

/-! Every read of a step is answered by the bus (20_memory.md R60). -/

namespace Sys2Proof.Machine

open Sys2Proof

/-- The instruction answers a next state by cycles whose reads the bus answered. -/
def RunsAnswered (i : Instr) (s : State) : Prop := ∃ t cs, exec i s = .next t ∧ Ran cs s t

theorem ran_branch {cond : Bool} {offset : Int} {s : State} (h : FetchesAre [BitVec.ofInt 8 offset] s) :
    ∃ cs, Ran cs s (branch cond offset s) := by
  refine ⟨_, performed_branch cond offset s, h.1, ?_⟩
  cases cond <;> cases (resolveRelative offset s).crossed <;> trivial

/-- Of its target JSR fetches only the low byte as an operand: the high one is read after the pushes (R190). -/
theorem ran_jumpToSubroutine {target : Word} {s : State} (h : loByte target = s.bus.value s.pc) :
    ∃ cs, Ran cs s (jumpToSubroutine target s) := by
  have hp : Ran _ s (jsrPushed target s) := ⟨performed_jsrPushed target s, h, trivial⟩
  rw [jumpToSubroutine_eq]
  exact ⟨_, hp.trans (ran_memRead _ _)⟩

theorem runsAnswered_mem {i : Instr} {o : Operand} {s : State} (hf : i.form = .mem o) (h : FetchesAre o.bytes s) :
    RunsAnswered i s := by
  rcases mnemonic_of_mem hf with hm | hm | hm | ⟨addr, rfl | rfl⟩
  · obtain ⟨a, x, y, p, he⟩ := exec_readClass s hf hm
    exact ⟨_, _, he, ran_readOperand h⟩
  · obtain ⟨v, he⟩ := exec_writeClass s hf hm
    exact ⟨_, _, he, ran_writeOperand v (.inr h)⟩
  · obtain ⟨f, he⟩ := exec_rmwClass s hf hm
    exact ⟨_, _, he, ran_modifyOperand (.inr h)⟩
  · cases hf
    exact ⟨_, _, rfl, ran_fetchWord h⟩
  · cases hf
    obtain ⟨cs, hr⟩ := ran_jumpToSubroutine h.1
    exact ⟨_, cs, rfl, hr⟩

theorem runsAnswered_imp {i : Instr} (s : State) (hf : i.form = .imp) : RunsAnswered i s := by
  rcases exec_imp s hf with ⟨-, r, he⟩ | rfl | rfl | rfl | rfl | rfl | rfl | rfl
  · exact ⟨_, _, he, ran_idle s⟩
  · exact ⟨_, _, rfl, (ran_idle s).trans (ran_push _ _)⟩
  · exact ⟨_, _, rfl, (ran_idle s).trans (ran_push _ _)⟩
  · exact ⟨_, _, rfl, ran_idle2_pull s⟩
  · exact ⟨_, _, rfl, ran_idle2_pull s⟩
  · obtain ⟨lo, hi, h, -⟩ := returnFromSubroutine_spec s
    exact ⟨_, _, rfl, h⟩
  · obtain ⟨v, lo, hi, h, -⟩ := returnFromInterrupt_spec s
    exact ⟨_, _, rfl, h⟩
  · obtain ⟨lo, hi, h, -⟩ := brkEntry_spec s
    exact ⟨_, _, rfl, h⟩

theorem exec_runsAnswered {i : Instr} {s : State} (h : FetchesAre i.form.bytes s) : RunsAnswered i s := by
  cases hf : i.form with
  | mem o => exact runsAnswered_mem hf (by rwa [hf] at h)
  | rel offset =>
    rw [hf] at h
    obtain ⟨cs, hr⟩ := ran_branch h
    exact ⟨_, cs, exec_branch s hf, hr⟩
  | ind ptr =>
    rw [hf] at h
    obtain ⟨lo, hi, -, hr⟩ := ran_jumpIndirect h
    exact eq_jmpInd_of_form hf ▸ ⟨_, _, rfl, hr⟩
  | acc =>
    rcases exec_acc s hf with ⟨-, he⟩ | ⟨-, he⟩ | ⟨-, he⟩ | ⟨-, he⟩ <;> exact ⟨_, _, he, ran_idle s⟩
  | imp => exact runsAnswered_imp s hf

theorem ran_serviceInterrupt (source : InterruptSource) (s : State) : ∃ cs, Ran cs s (serviceInterrupt source s) := by
  cases source with
  | nmi =>
    obtain ⟨_, _, _, h, -⟩ := interruptEntry_spec nmiVector ((s.setPendingNmi false).setResult (some (.interrupt .nmi)))
    exact ⟨_, h⟩
  | irq =>
    obtain ⟨_, _, _, h, -⟩ := interruptEntry_spec irqVector (s.setResult (some (.interrupt .irq)))
    exact ⟨_, h⟩

theorem ran_opcodeFetched (s : State) : Ran [.read s.pc (opcodeByte s)] s (opcodeFetched s) := ran_fetchByte rfl

/-- A completed step was cycles whose reads the bus answered: those of an interrupt entry, or the opcode fetch and those of
the instruction it fetched. -/
theorem step_ran {s t : State} (h : step s = .next t) : ∃ cs, Ran cs s.begin t := by
  obtain ⟨-, ⟨source, -, rfl⟩ | ⟨-, i, hi, he⟩⟩ := step_cases h
  · exact ran_serviceInterrupt source s.begin
  · obtain ⟨-, hb, -⟩ := fetchInstr_ok hi
    obtain ⟨u, cs, hu, hr⟩ := exec_runsAnswered hb
    obtain rfl : u = t := Host.Outcome.next.inj (hu.symm.trans he)
    exact ⟨_, (ran_opcodeFetched s.begin).trans hr⟩

/-- The record of a completed step is answered from the bus the step began with. -/
theorem step_answered {s t : State} (h : step s = .next t) : Answered s.bus t.trace := by
  obtain ⟨cs, ⟨ht, -, -⟩, ha⟩ := step_ran h
  have ht : t.trace = cs := ht
  exact ht ▸ ha

/-- Settles O56: the step's record is its 2 to 7 cycles, and the bus answered every read among them, the operand fetches
included, since the decoder took their bytes from the bus. -/
theorem stepIsTwoToSevenAnsweredCycles : Obligations.StepIsTwoToSevenAnsweredCycles := by
  intro s t h
  obtain ⟨⟨-, hc, hb⟩, h2, h7, -⟩ := step_two_to_seven h
  exact ⟨h2, h7, hc, hb, step_answered h⟩

/-- Settles O16, by the lemma that O17 uses for its step request: a completed step is cycles, which keep memory canonical,
and ends at a boundary. -/
theorem stepKeepsTheInvariant : Obligations.StepKeepsTheInvariant := fun _ _ hi h => step_keeps_inv hi h

/-! Power-on and the first RESET (10_state.md R38). -/

/-- Settles O13: the fields and the cycles of RESET, on the state of construction. -/
theorem firstResetAfterPowerOn : Obligations.FirstResetAfterPowerOn := by
  intro r bus
  let s : State := (State.powerOn r bus).begin
  obtain ⟨⟨-, hc, hb⟩, -⟩ := ran_resetSequence s
  obtain ⟨ha, hx, hy, hsp, hp, hpc, hn, hi, -, -⟩ := resetSequence_fields s
  have hm : (resetSequence s).bus.mem = bus.mem := by
    rw [hb]
    exact foldl_perform_mem_of_no_write bus (by simp)
  refine ⟨_, vectorLo resetVector s, vectorHi resetVector s, rfl, ha, hx, hy, hsp, ?_, hc, hn, hi, ⟨rfl, rfl, trivial⟩, hpc,
    hm, (ran_resetSequence s).1.platform, rfl⟩
  exact (congrArg Flags.pack hp).trans (by decide)

/-! The pushed copies of P. -/

theorem packIrq_eq_pack (p : Flags) : p.packIrq = p.pack := by
  obtain ⟨n, v, d, i, z, c⟩ := p
  revert n v d i z c
  decide

theorem packPhp_toNat (p : Flags) : p.packPhp.toNat = p.pack.toNat + 16 := by
  obtain ⟨n, v, d, i, z, c⟩ := p
  revert n v d i z c
  decide

theorem unpack_pack (p : Flags) : Flags.unpack p.pack = p := by
  obtain ⟨n, v, d, i, z, c⟩ := p
  revert n v d i z c
  decide

/-- Bits 5 and 4 of a byte have no effect on the flags unpacked from it (R29). -/
theorem unpack_or_bits54 (v : Byte) : Flags.unpack (v ||| 0x30#8) = Flags.unpack v := by
  simp [Flags.unpack]

theorem pack_unpack : ∀ v : Byte, (Flags.unpack v).pack = (v &&& ~~~0x10#8) ||| 0x20#8 := by decide

/-- Settles O19: an interrupt's copy is the packed view, and the two bits a copy may add are none that unpacking reads. -/
theorem pushedCopiesOfP : Obligations.PushedCopiesOfP := fun p v =>
  ⟨packPhp_toNat p, packIrq_eq_pack p, (unpack_or_bits54 p.pack).trans (unpack_pack p),
    (congrArg Flags.unpack (packIrq_eq_pack p)).trans (unpack_pack p), pack_unpack v⟩

end Sys2Proof.Machine

/-! The writers of each flag, register and of PC (10_state.md R31 and section 1). -/

namespace Sys2Proof.Machine

open Sys2Proof

/-- Between `p` and `q` only flags have changed of which the mnemonic is a listed writer (R31). -/
def FlagWriters (m : Mnemonic) (p q : Flags) : Prop :=
  (q.n ≠ p.n ∨ q.z ≠ p.z → m ∈ [.lda, .ldx, .ldy, .tax, .tay, .tsx, .txa, .tya, .adc, .sbc, .and,
    .ora, .eor, .inc, .dec, .inx, .iny, .dex, .dey, .asl, .lsr, .rol, .ror, .pla, .cmp, .cpx, .cpy, .bit, .plp, .rti]) ∧
  (q.v ≠ p.v → m ∈ [.adc, .sbc, .bit, .clv, .plp, .rti]) ∧
  (q.d ≠ p.d → m ∈ [.sed, .cld, .plp, .rti]) ∧
  (q.i ≠ p.i → m ∈ [.sei, .cli, .plp, .rti, .brk]) ∧
  (q.c ≠ p.c → m ∈ [.adc, .sbc, .asl, .lsr, .rol, .ror, .cmp, .cpx, .cpy, .clc, .sec, .plp, .rti])

/-- Between `s` and `t` only registers have changed of which the mnemonic is a listed writer, and PC has moved past `n`
operand bytes unless the mnemonic transfers control (10_state.md section 1). -/
def RegisterWriters (m : Mnemonic) (n : Nat) (s t : State) : Prop :=
  (t.a ≠ s.a → m ∈ [.lda, .adc, .sbc, .and, .ora, .eor, .asl, .lsr, .rol, .ror, .txa, .tya, .pla]) ∧
  (t.x ≠ s.x → m ∈ [.ldx, .tax, .tsx, .inx, .dex]) ∧
  (t.y ≠ s.y → m ∈ [.ldy, .tay, .iny, .dey]) ∧
  (t.sp ≠ s.sp → m ∈ [.txs, .pha, .php, .pla, .plp, .jsr, .rts, .brk, .rti]) ∧
  (t.pc ≠ s.pc + BitVec.ofNat 16 n → m ∈ [.bpl, .bmi, .bvc, .bvs, .bcc, .bcs, .bne, .beq, .jmp, .jsr, .rts, .brk, .rti])

/-- Both: nothing else of the registers and flags has changed. -/
def OnlyListedWrites (m : Mnemonic) (n : Nat) (s t : State) : Prop := FlagWriters m s.p t.p ∧ RegisterWriters m n s t

/-- The instruction answers a next state, which differs only in what its mnemonic is a listed writer of. -/
def WritesListed (i : Instr) (s : State) : Prop :=
  ∃ t, exec i s = .next t ∧ OnlyListedWrites i.mnemonic i.form.bytes.length s t

/-! The flag computations. -/

theorem flagWriters_of_eq {m : Mnemonic} {p q : Flags} (h : q = p) : FlagWriters m p q := by simp [FlagWriters, h]

/-- SetZN with a carry, of the shifts (R160 to R163). -/
theorem flagWriters_carry_setZN {m : Mnemonic} (hm : m ∈ [Mnemonic.asl, .lsr, .rol, .ror]) (c : Bool) (v : Byte)
    (p : Flags) : FlagWriters m p ({ p with c := c }.setZN v) := by
  simp only [List.mem_cons, List.not_mem_nil, or_false] at hm
  rcases hm with rfl | rfl | rfl | rfl <;> simp [FlagWriters, Flags.setZN]

theorem flagWriters_adcResult (a v : Byte) (p : Flags) : FlagWriters .adc p (adcResult a v p).2 := by
  cases hd : p.d <;> simp [FlagWriters, adcResult, adcBinary, adcDecimal, Flags.setZN, hd]

theorem flagWriters_sbcResult (a v : Byte) (p : Flags) : FlagWriters .sbc p (sbcResult a v p).2 := by
  simp [FlagWriters, sbcResult, adcBinary, Flags.setZN]

theorem flagWriters_compareFlags {m : Mnemonic} (hm : m ∈ [Mnemonic.cmp, .cpx, .cpy]) (r v : Byte) (p : Flags) :
    FlagWriters m p (compareFlags r v p) := by
  simp only [List.mem_cons, List.not_mem_nil, or_false] at hm
  rcases hm with rfl | rfl | rfl <;> simp [FlagWriters, compareFlags]

/-! Memory operands. -/

theorem logicWith_writes {m : Mnemonic} (hm : m ∈ [Mnemonic.and, .ora, .eor]) (f : Byte → Byte → Byte) (o : Operand)
    (s : State) : OnlyListedWrites m o.bytes.length s (logicWith f o s) := by
  simp only [List.mem_cons, List.not_mem_nil, or_false] at hm
  rcases hm with rfl | rfl | rfl <;> simp [OnlyListedWrites, FlagWriters, RegisterWriters, logicWith, Flags.setZN]

theorem compareWith_writes {m : Mnemonic} (hm : m ∈ [Mnemonic.cmp, .cpx, .cpy]) (reg : Byte) (o : Operand) (s : State) :
    OnlyListedWrites m o.bytes.length s (compareWith reg o s) :=
  ⟨flagWriters_compareFlags hm reg _ s.p, by simp [RegisterWriters, compareWith]⟩

theorem writeOperand_writes (m : Mnemonic) (o : Operand) (v : Byte) (s : State) :
    OnlyListedWrites m o.bytes.length s (writeOperand o v s) := by
  simp [OnlyListedWrites, FlagWriters, RegisterWriters, writeOperand]

theorem modifyOperand_writes {m : Mnemonic} {f : Byte → Flags → Byte × Flags} {s : State}
    (h : ∀ v, FlagWriters m s.p (f v s.p).2) (o : Operand) :
    OnlyListedWrites m o.bytes.length s (modifyOperand f o s) :=
  ⟨h _, by simp [RegisterWriters, modifyOperand]⟩

theorem writesListed_read {i : Instr} {o : Operand} (s : State) (hf : i.form = .mem o)
    (hm : i.mnemonic ∈ [Mnemonic.lda, .ldx, .ldy, .adc, .sbc, .and, .ora, .eor, .cmp, .cpx, .cpy, .bit]) :
    WritesListed i s := by
  simp only [List.mem_cons, List.not_mem_nil, or_false] at hm
  simp only [WritesListed, hf, Form.bytes]
  rcases hm with hm | hm | hm | hm | hm | hm | hm | hm | hm | hm | hm | hm
  · exact ⟨_, exec_lda s hf hm, by simp [OnlyListedWrites, FlagWriters, RegisterWriters, lda, hm, Flags.setZN]⟩
  · exact ⟨_, exec_ldx s hf hm, by simp [OnlyListedWrites, FlagWriters, RegisterWriters, ldx, hm, Flags.setZN]⟩
  · exact ⟨_, exec_ldy s hf hm, by simp [OnlyListedWrites, FlagWriters, RegisterWriters, ldy, hm, Flags.setZN]⟩
  · exact ⟨_, exec_adc s hf hm, hm ▸ flagWriters_adcResult s.a _ s.p, by simp [RegisterWriters, adc, hm]⟩
  · exact ⟨_, exec_sbc s hf hm, hm ▸ flagWriters_sbcResult s.a _ s.p, by simp [RegisterWriters, sbc, hm]⟩
  · exact ⟨_, exec_and s hf hm, logicWith_writes (by simp [hm]) _ o s⟩
  · exact ⟨_, exec_ora s hf hm, logicWith_writes (by simp [hm]) _ o s⟩
  · exact ⟨_, exec_eor s hf hm, logicWith_writes (by simp [hm]) _ o s⟩
  · exact ⟨_, exec_cmp s hf hm, compareWith_writes (by simp [hm]) s.a o s⟩
  · exact ⟨_, exec_cpx s hf hm, compareWith_writes (by simp [hm]) s.x o s⟩
  · exact ⟨_, exec_cpy s hf hm, compareWith_writes (by simp [hm]) s.y o s⟩
  · exact ⟨_, exec_bit s hf hm, by simp [OnlyListedWrites, FlagWriters, RegisterWriters, bitTest, hm, bitFlags]⟩

theorem writesListed_rmw {i : Instr} {o : Operand} (s : State) (hf : i.form = .mem o)
    (hm : i.mnemonic ∈ [Mnemonic.inc, .dec, .asl, .lsr, .rol, .ror]) : WritesListed i s := by
  simp only [List.mem_cons, List.not_mem_nil, or_false] at hm
  simp only [WritesListed, hf, Form.bytes]
  rcases hm with hm | hm | hm | hm | hm | hm
  · exact ⟨_, exec_inc s hf hm, modifyOperand_writes (fun v => by simp [FlagWriters, incResult, hm, Flags.setZN]) o⟩
  · exact ⟨_, exec_dec s hf hm, modifyOperand_writes (fun v => by simp [FlagWriters, decResult, hm, Flags.setZN]) o⟩
  · exact ⟨_, exec_asl s hf hm, modifyOperand_writes (fun v => flagWriters_carry_setZN (by simp [hm]) _ _ s.p) o⟩
  · exact ⟨_, exec_lsr s hf hm, modifyOperand_writes (fun v => flagWriters_carry_setZN (by simp [hm]) _ _ s.p) o⟩
  · exact ⟨_, exec_rol s hf hm, modifyOperand_writes (fun v => flagWriters_carry_setZN (by simp [hm]) _ _ s.p) o⟩
  · exact ⟨_, exec_ror s hf hm, modifyOperand_writes (fun v => flagWriters_carry_setZN (by simp [hm]) _ _ s.p) o⟩

theorem writesListed_jsr (addr : Word) (s : State) : WritesListed (.jsr addr) s := by
  obtain ⟨⟨ha, hx, hy, -⟩, hp, -⟩ := jumpToSubroutine_frame addr s
  exact ⟨_, rfl, flagWriters_of_eq hp, by simp [RegisterWriters, Instr.mnemonic, ha, hx, hy]⟩

theorem writesListed_mem {i : Instr} {o : Operand} (s : State) (hf : i.form = .mem o) : WritesListed i s := by
  rcases mnemonic_of_mem hf with hm | hm | hm | ⟨addr, rfl | rfl⟩
  · exact writesListed_read s hf hm
  · obtain ⟨v, he⟩ := exec_writeClass s hf hm
    exact ⟨_, he, hf ▸ writeOperand_writes _ o v s⟩
  · exact writesListed_rmw s hf hm
  · exact ⟨_, rfl, by simp [OnlyListedWrites, FlagWriters, RegisterWriters, Instr.mnemonic]⟩
  · exact writesListed_jsr addr s

/-! The other forms. -/

theorem writesListed_rel {i : Instr} {offset : Int} (s : State) (hf : i.form = .rel offset) : WritesListed i s := by
  obtain ⟨⟨ha, hx, hy, hsp⟩, hp, -⟩ := branch_frame (branchTaken i.mnemonic s.p) offset s
  have hm : i.mnemonic ∈ [Mnemonic.bpl, .bmi, .bvc, .bvs, .bcc, .bcs, .bne, .beq] := by
    cases i <;> cases hf <;> simp [Instr.mnemonic]
  exact ⟨_, exec_branch s hf, flagWriters_of_eq hp, fun h => absurd ha h, fun h => absurd hx h, fun h => absurd hy h,
    fun h => absurd hsp h, fun _ => List.mem_append_left [Mnemonic.jmp, .jsr, .rts, .brk, .rti] hm⟩

theorem writesListed_acc {i : Instr} (s : State) (hf : i.form = .acc) : WritesListed i s := by
  have ⟨f, he, hm, hw⟩ : ∃ f, exec i s = .next (modifyAccumulator f s) ∧ i.mnemonic ∈ [Mnemonic.asl, .lsr, .rol, .ror] ∧
      FlagWriters i.mnemonic s.p (f s.a s.p).2 := by
    rcases exec_acc s hf with ⟨hm, h⟩ | ⟨hm, h⟩ | ⟨hm, h⟩ | ⟨hm, h⟩ <;>
      exact ⟨_, h, by simp [hm], flagWriters_carry_setZN (by simp [hm]) _ _ s.p⟩
  simp only [List.mem_cons, List.not_mem_nil, or_false] at hm
  refine ⟨_, he, hw, ?_⟩
  rcases hm with hm | hm | hm | hm <;> simp [RegisterWriters, modifyAccumulator, hm, hf, Form.bytes]

theorem writesListed_imp {i : Instr} (s : State) (hf : i.form = .imp) : WritesListed i s := by
  cases i <;> cases hf
  case rts =>
    obtain ⟨_, _, -, -, hp, ⟨ha, hx, hy, -⟩, -⟩ := returnFromSubroutine_spec s
    exact ⟨_, rfl, flagWriters_of_eq hp, by simp [RegisterWriters, Instr.mnemonic, ha, hx, hy]⟩
  case rti =>
    obtain ⟨_, _, _, -, -, -, -, ⟨ha, hx, hy, -⟩, -⟩ := returnFromInterrupt_spec s
    exact ⟨_, rfl, by simp [FlagWriters, Instr.mnemonic], by simp [RegisterWriters, Instr.mnemonic, ha, hx, hy]⟩
  case brk =>
    obtain ⟨_, _, -, -, -, hp, ⟨ha, hx, hy, -⟩, -⟩ := brkEntry_spec s
    exact ⟨_, rfl, by simp [FlagWriters, Instr.mnemonic, hp], by simp [RegisterWriters, Instr.mnemonic, ha, hx, hy]⟩
  -- the rule of every other instruction of this form is written as updates of single fields
  all_goals
    exact ⟨_, rfl, by simp [OnlyListedWrites, FlagWriters, RegisterWriters, Instr.mnemonic, Instr.form, Form.bytes,
      Flags.setZN, pullA, pullP]⟩

theorem exec_writesListed (i : Instr) (s : State) : WritesListed i s := by
  cases hf : i.form with
  | mem o => exact writesListed_mem s hf
  | rel offset => exact writesListed_rel s hf
  | ind ptr =>
    rw [eq_jmpInd_of_form hf]
    exact ⟨_, rfl, by simp [OnlyListedWrites, FlagWriters, RegisterWriters, Instr.mnemonic, jumpIndirect,
      resolveIndirect]⟩
  | acc => exact writesListed_acc s hf
  | imp => exact writesListed_imp s hf

theorem onlyListedWrites_of_exec {i : Instr} {s t : State} (h : exec i s = .next t) :
    OnlyListedWrites i.mnemonic i.form.bytes.length s t := by
  obtain ⟨u, hu, hw⟩ := exec_writesListed i s
  exact Host.Outcome.next.inj (hu.symm.trans h) ▸ hw

/-- Settles O53: the flags part of what every instruction writes. -/
theorem flagsHaveOnlyTheListedWriters : Obligations.FlagsHaveOnlyTheListedWriters :=
  fun _ _ _ h => (onlyListedWrites_of_exec h).1

/-- Settles O54: the registers part of the same; an instruction's bytes are its opcode byte and its operand bytes. -/
theorem registersHaveOnlyTheListedWriters : Obligations.RegistersHaveOnlyTheListedWriters := by
  intro i s t h
  obtain ⟨ha, hx, hy, hsp, hpc⟩ := (onlyListedWrites_of_exec h).2
  have hn : s.pc + BitVec.ofNat 16 (encode i).length - 1 = s.pc + BitVec.ofNat 16 i.form.bytes.length := by
    simp only [encode, List.length_cons]
    bv_omega
  exact ⟨ha, hx, hy, hsp, hn ▸ hpc⟩

end Sys2Proof.Machine

/-! Reads and writes of single addresses on the bus (20_memory.md R52, R53). -/

namespace Sys2Proof.Machine

open Sys2Proof

theorem Bus.value_of_io {b : Bus} {a : Word} (h : b.kindAt a = .io) : b.value a = Config.busDraw b.draws := by
  simp only [Bus.value, h]

theorem Bus.value_of_ne_io {b : Bus} {a : Word} (h : b.kindAt a ≠ .io) : b.value a = Memory.read b.mem a.toNat := by
  cases hk : b.kindAt a with
  | ram | rom => simp only [Bus.value, hk]
  | io => exact absurd hk h

theorem Bus.perform_read_draws_of_io {b : Bus} {a : Word} (v : Byte) (h : b.kindAt a = .io) :
    (b.perform (.read a v)).draws = b.draws + 1 := by
  simp only [Bus.perform, h]

theorem Bus.value_perform_write_ram {b : Bus} {a : Word} (v : Byte) (hm : b.mem.wf = true) (h : b.kindAt a = .ram) :
    (b.perform (.write a v)).value a = v := by
  rw [Bus.value_of_ne_io (by simp [h]), Bus.read_perform_write_same a v hm, if_pos h]

theorem Bus.value_perform_write_rom {b : Bus} {a : Word} (v : Byte) (h : b.kindAt a = .rom) :
    (b.perform (.write a v)).value a = b.value a := by
  have hk : b.perform (.write a v) = b := by simp only [Bus.perform, h]
  rw [hk]

/-- A write to another address moves neither the byte an address holds nor the draw that an IO address answers with. -/
theorem Bus.value_perform_write_other {b : Bus} {a c : Word} (v : Byte) (h : c ≠ a) :
    (b.perform (.write a v)).value c = b.value c := by
  by_cases hk : b.kindAt c = .io
  · rw [Bus.value_of_io hk, Bus.value_of_io (by simpa using hk), Bus.perform_write_draws]
  · rw [Bus.value_of_ne_io hk, Bus.value_of_ne_io (by simpa using hk), Bus.read_perform_write_other v h]

/-- Settles O20: the kind of the address decides what a write leaves and what a read uses up. -/
theorem busReadsAndWrites : Obligations.BusReadsAndWrites :=
  fun b a _ v w hm =>
    ⟨Bus.value_perform_write_ram v hm, Bus.value_perform_write_rom v, Bus.value_perform_write_other v,
      Bus.perform_read_mem b a w, Bus.perform_read_of_ne_io w,
      fun h => ⟨Bus.value_of_io h, Bus.perform_read_draws_of_io w h⟩⟩

end Sys2Proof.Machine

/-! The encoding: round trips of encoder and decoder, the dispatch table and the illegal bytes (30_encoding.md R70 to R76). -/

namespace Sys2Proof

open Sys2Proof.Machine Sys2Proof.Laws

/-! What the decoder answers, by what the opcode byte selects with the two bytes after it. -/

theorem decode_cons_of_none {opc : Byte} {tail : List Byte}
    (h : instrOf opc (tail.getD 0 0) (tail.getD 1 0) = none) : decode (opc :: tail) = .error (.illegalOpcode opc) := by
  simp only [decode, h]

theorem decode_cons_of_some {opc : Byte} {tail : List Byte} {i : Instr}
    (h : instrOf opc (tail.getD 0 0) (tail.getD 1 0) = some i) :
    decode (opc :: tail) =
      if i.form.mode.operandLength ≤ tail.length then .ok (i, tail.drop i.form.mode.operandLength)
      else .error .truncated := by
  simp only [decode, h]

/-- Bytes decode when their opcode byte selects an instruction all of whose operand bytes are there; decoding consumes
those (R70, R71). -/
theorem decode_cons_ok_iff {opc : Byte} {tail rest : List Byte} {i : Instr} :
    decode (opc :: tail) = .ok (i, rest) ↔
      instrOf opc (tail.getD 0 0) (tail.getD 1 0) = some i ∧ i.form.mode.operandLength ≤ tail.length ∧
        tail.drop i.form.mode.operandLength = rest := by
  cases h : instrOf opc (tail.getD 0 0) (tail.getD 1 0) with
  | none => simp only [decode_cons_of_none h, reduceCtorEq, false_and]
  | some j =>
    rw [decode_cons_of_some h, Option.some_inj]
    split
    · rename_i hl
      rw [Except.ok.injEq, Prod.mk.injEq]
      exact ⟨fun ⟨hi, hr⟩ => ⟨hi, hi ▸ hl, hi ▸ hr⟩, fun ⟨hi, _, hr⟩ => ⟨hi, hi ▸ hr⟩⟩
    · rename_i hl
      exact ⟨nofun, fun ⟨hi, h, _⟩ => absurd (hi ▸ h) hl⟩

/-- An opcode byte is refused by name exactly when it selects no instruction; too few bytes are another refusal. -/
theorem decode_cons_illegal_iff {opc : Byte} {tail : List Byte} :
    decode (opc :: tail) = .error (.illegalOpcode opc) ↔ instrOf opc (tail.getD 0 0) (tail.getD 1 0) = none := by
  cases h : instrOf opc (tail.getD 0 0) (tail.getD 1 0) with
  | none => simp only [decode_cons_of_none h]
  | some j =>
    rw [decode_cons_of_some h]
    split <;> simp

/-! Operand bytes. -/

theorem Mode.operandLength_le_two (m : Mode) : m.operandLength ≤ 2 := by cases m <;> decide

/-- Of the two bytes the decoder looks at, the operand bytes that are there are the first bytes of the rest. -/
theorem take_getD_pair {tail : List Byte} {n : Nat} (h2 : n ≤ 2) (hl : n ≤ tail.length) :
    [tail.getD 0 0, tail.getD 1 0].take n = tail.take n := by
  match tail, n with
  | _, 0 => rfl
  | lo :: tail, 1 => rfl
  | lo :: hi :: tail, 2 => rfl

/-! Round trips. -/

/-- Settles O1: the operand bytes are the first bytes after the opcode byte, and an instruction's own bytes select it
(`instr_tableRow`). -/
theorem decodeOfEncodeIsTheInstruction : Obligations.DecodeOfEncodeIsTheInstruction := by
  intro i rest hw
  obtain ⟨-, hlen, hsel⟩ := instr_tableRow i
  have hl : i.form.mode.operandLength ≤ (i.form.bytes ++ rest).length := by simp [← hlen]
  have hb : i.form.bytes =
      [(i.form.bytes ++ rest).getD 0 0, (i.form.bytes ++ rest).getD 1 0].take i.form.mode.operandLength := by
    rw [take_getD_pair (Mode.operandLength_le_two _) hl, ← hlen, List.take_left]
  have hr : (i.form.bytes ++ rest).drop i.form.mode.operandLength = rest := by rw [← hlen, List.drop_left]
  exact decode_cons_ok_iff.2 ⟨hsel hw _ _ hb, hl, hr⟩

/-- Settles O2: what was decoded has the opcode byte and the operand bytes it was decoded from (`instrOf_bytes`). -/
theorem encodeOfDecodeIsTheBytes : Obligations.EncodeOfDecodeIsTheBytes := by
  intro bytes rest i h
  cases bytes with
  | nil => cases h
  | cons opc tail =>
    obtain ⟨hi, hl, rfl⟩ := decode_cons_ok_iff.1 h
    obtain ⟨hopc, hb, hw⟩ := instrOf_bytes hi
    refine ⟨hw, ?_⟩
    rw [encode, hopc, hb, take_getD_pair (Mode.operandLength_le_two _) hl, List.cons_append, List.take_append_drop]

/-! The table against the decoder, and against the list of illegal bytes. -/

theorem dispatchTable_of_instrOf {opc lo hi : Byte} {i : Instr} (h : instrOf opc lo hi = some i) :
    dispatchTable opc = some ⟨i.mnemonic, i.form.mode, cyclesOf i, crossAdds i⟩ :=
  (instrOf_bytes h).1 ▸ (instr_tableRow i).1

/-- The opcode byte of every row selects an instruction, whatever the operand bytes. -/
theorem instrOf_isSome_of_mem_dispatchRows (lo hi : Byte) :
    ∀ r ∈ dispatchRows, (instrOf (BitVec.ofNat 8 r.1) lo hi).isSome = true := by
  simp only [dispatchRows, List.forall_mem_append]
  refine ⟨⟨⟨⟨⟨⟨⟨?_, ?_⟩, ?_⟩, ?_⟩, ?_⟩, ?_⟩, ?_⟩, ?_⟩ <;> exact List.all_eq_true.1 rfl

theorem instrOf_eq_none_iff {opc lo hi : Byte} : instrOf opc lo hi = none ↔ dispatchTable opc = none := by
  constructor
  · intro h
    rw [dispatchTable, List.lookup_eq_none_iff]
    intro r hr
    have hs := instrOf_isSome_of_mem_dispatchRows lo hi r hr
    refine bne_iff_ne.2 fun he => ?_
    rw [← he, BitVec.ofNat_toNat, BitVec.setWidth_eq, h] at hs
    cases hs
  · intro h
    cases hi : instrOf opc lo hi with
    | none => rfl
    | some i => cases h.symm.trans (dispatchTable_of_instrOf hi)

/-- Settles O4: the row of the instruction selected; or no instruction and no row. -/
theorem decoderFollowsTheDispatchTable : Obligations.DecoderFollowsTheDispatchTable := by
  intro opc lo hi
  cases h : instrOf opc lo hi with
  | none => rw [instrOf_eq_none_iff.1 h]; rfl
  | some i => rw [dispatchTable_of_instrOf h, ← (instrOf_bytes h).1]; rfl

/-- The bytes without a row are, in order, those that R76 lists. -/
theorem filter_lookup_isNone_eq_illegalOpcodeBytes :
    (List.range 256).filter (fun n => (dispatchRows.lookup n).isNone) = illegalOpcodeBytes.map BitVec.toNat := by
  decide

theorem dispatchTable_eq_none_iff {opc : Byte} : dispatchTable opc = none ↔ opc ∈ illegalOpcodeBytes := by
  have hopc : opc.toNat < 256 := opc.isLt
  have h : opc.toNat ∈ illegalOpcodeBytes.map BitVec.toNat ↔ opc ∈ illegalOpcodeBytes :=
    List.mem_map_of_injective fun _ _ => BitVec.eq_of_toNat_eq
  rw [← h, ← filter_lookup_isNone_eq_illegalOpcodeBytes, List.mem_filter, List.mem_range, Option.isNone_iff_eq_none]
  exact (and_iff_right hopc).symm

theorem illegalOpcodeBytes_nodup : illegalOpcodeBytes.Nodup :=
  List.Nodup.of_map BitVec.toNat (filter_lookup_isNone_eq_illegalOpcodeBytes ▸ List.nodup_range.filter _)

/-- Settles O3: the decoder refuses the bytes that have no row, and these are the listed ones. -/
theorem illegalBytesAreExactlyThoseOfTheList : Obligations.IllegalBytesAreExactlyThoseOfTheList :=
  ⟨rfl, illegalOpcodeBytes_nodup, fun _ _ =>
    decode_cons_illegal_iff.trans (instrOf_eq_none_iff.trans dispatchTable_eq_none_iff)⟩

/-- Settles O6, by running the decoder on each of the twelve words. -/
theorem wordsOfTheSpecDecode : Obligations.WordsOfTheSpecDecode :=
  ⟨rfl, rfl, rfl, rfl, rfl, rfl, rfl, rfl, rfl, rfl, rfl, rfl⟩

end Sys2Proof

/-! The addressing modes: addresses, page crosses and cycles of the resolver (40_addressing_modes.md R80 to R96). -/

namespace Sys2Proof.Machine

open Sys2Proof

theorem zext16_add_toNat (v w : Byte) : (zext16 (v + w)).toNat = (v.toNat + w.toNat) % 256 := by
  rw [zext16_toNat, BitVec.toNat_add]

/-- The address after a byte of page 0 is again in page 0 (R91). -/
theorem zext16_add_one_toNat (v : Byte) : (zext16 (v + 1)).toNat = (v.toNat + 1) % 256 := zext16_add_toNat v 1

theorem toNat_eq_loByte_add_hiByte (w : Word) : w.toNat = (loByte w).toNat + 256 * (hiByte w).toNat := by
  rw [← word_toNat, word_lo_hi]

/-- The idle cycle of an indexed mode, on the condition as the claims write it (R88, R92). -/
theorem indexCycles_eq (cls : AccessClass) (crossed : Bool) :
    indexCycles cls crossed = if cls ≠ .read ∨ crossed = true then [.idle] else [] := by
  simp only [indexCycles, Bool.or_eq_true, bne_iff_ne]

/-- The sum of an indexed mode wraps modulo 65536 (R88). -/
theorem resolveIndexed_ea_toNat (base : Word) (index : Byte) (cls : AccessClass) (s : State) :
    (resolveIndexed base index cls s).ea.toNat = (base.toNat + index.toNat) % 65536 := by
  simp [resolveIndexed, BitVec.toNat_add]

/-- A page is crossed when the sum has another high byte than the base (R88). -/
theorem resolveIndexed_crossed (base : Word) (index : Byte) (cls : AccessClass) (s : State) :
    (resolveIndexed base index cls s).crossed =
      decide ((resolveIndexed base index cls s).ea.toNat / 256 ≠ base.toNat / 256) := page_bne _ _

theorem performed_resolveIndexed (base : Word) (index : Byte) (cls : AccessClass) (s : State) :
    Performed (if cls ≠ .read ∨ (resolveIndexed base index cls s).crossed = true then [.idle] else []) s
      (resolveIndexed base index cls s).after :=
  indexCycles_eq .. ▸ (ran_resolveIndexed base index cls s).1

/-- What ABSX and ABSY share: the sum, the page test, and an idle cycle that may follow the two fetches (R88, R89). -/
theorem indexedAbsolute_spec (addr : Word) (index : Byte) (cls : AccessClass) (s : State) :
    let r := resolveIndexed addr index cls (fetchWord addr s)
    r.ea.toNat = (addr.toNat + index.toNat) % 65536 ∧ r.crossed = decide (r.ea.toNat / 256 ≠ addr.toNat / 256) ∧
      Performed ([.read s.pc (loByte addr), .read (s.pc + 1) (hiByte addr)] ++
        if cls ≠ .read ∨ r.crossed = true then [.idle] else []) s r.after :=
  ⟨resolveIndexed_ea_toNat addr index cls _, resolveIndexed_crossed addr index cls _,
    (performed_fetchWord addr s).trans (performed_resolveIndexed addr index cls _)⟩

/-- Settles O21: each mode performs its row of `resolveCycles`; the two indexed absolute modes are one sum. -/
theorem resolveDirectAndIndexedModes : Obligations.ResolveDirectAndIndexedModes := by
  intro cls s op addr
  have cycles (o : Operand) : Performed (resolveCycles o cls s) s (resolve o cls s).after := performed_resolve o cls s
  exact ⟨⟨rfl, rfl, rfl⟩, ⟨zext16_toNat op, rfl, cycles (.zp op)⟩, ⟨zext16_add_toNat op s.x, rfl, cycles (.zpx op)⟩,
    ⟨zext16_add_toNat op s.y, rfl, cycles (.zpy op)⟩, ⟨rfl, rfl, cycles (.abs addr)⟩,
    indexedAbsolute_spec addr s.x cls s, indexedAbsolute_spec addr s.y cls s⟩

/-- Settles O22: the pointer word is read at two addresses of page 0, and (Indirect),Y indexes it as ABSY does its
operand. -/
theorem resolvePointerModes : Obligations.ResolvePointerModes := by
  intro cls s op
  constructor
  · have hp := ran_readZeroPageWord (op + s.x) (idle (fetchByte op s))
    refine ⟨_, _, _, _, zext16_add_toNat op s.x, ?_, hp.2, toNat_eq_loByte_add_hiByte _, rfl, performed_resolve (.izx op) cls s⟩
    rw [zext16_add_one_toNat, BitVec.toNat_add]
    omega
  · have hp := ran_readZeroPageWord op (fetchByte op s)
    refine ⟨_, _, _, _, zext16_toNat op, zext16_add_one_toNat op, hp.2, ?_, ?_,
      ((performed_fetchByte op s).trans hp.1).trans (performed_resolveIndexed _ s.y cls _)⟩
    · rw [← toNat_eq_loByte_add_hiByte]
      exact resolveIndexed_ea_toNat _ s.y cls _
    · rw [hiByte_toNat]
      exact resolveIndexed_crossed _ s.y cls _

/-- Settles O23: the cycles are those of `resolveCycles`, none of them a write. -/
theorem resolverOnlyReadsAndMovesPc : Obligations.ResolverOnlyReadsAndMovesPc := fun o cls s =>
  ⟨resolveCycles o cls s, performed_resolve o cls s, resolveCycles_no_write o cls s, resolve_pc o cls s,
    ⟨resolve_a o cls s, resolve_x o cls s, resolve_y o cls s, resolve_sp o cls s⟩, resolve_p o cls s, resolve_peek o cls s,
    ⟨resolve_pendingNmi o cls s, resolve_pendingIrq o cls s, resolve_phase o cls s, resolve_platform o cls s,
      resolve_result o cls s⟩⟩

/-- Settles O24: every mode but IMM ends in the one read at the effective address. -/
theorem operandByteIsTheBusAnswerAtTheEffectiveAddress :
    Obligations.OperandByteIsTheBusAnswerAtTheEffectiveAddress := by
  intro o s
  constructor
  · rintro op rfl
    rfl
  · intro h
    cases o with
    | imm op => exact absurd rfl (h op)
    | zp _ | zpx _ | zpy _ | abs _ | absx _ | absy _ | izx _ | izy _ => rfl

/-- Settles O5, by running through the 151 rows of the table, in the parts it is written in. -/
theorem pageCrossFlagIsThatOfReadsInIndexedModes : Obligations.PageCrossFlagIsThatOfReadsInIndexedModes := by
  refine ⟨by decide, ?_⟩
  simp only [dispatchRows, List.forall_mem_append]
  refine ⟨⟨⟨⟨⟨⟨⟨?_, ?_⟩, ?_⟩, ?_⟩, ?_⟩, ?_⟩, ?_⟩, ?_⟩ <;> decide

/-! Branches (R93, R180). -/

theorem wellFormed_of_rel {i : Instr} {offset : Int} (hf : i.form = .rel offset) :
    i.wellFormed = branchOffsetFits offset := by
  cases i <;> cases hf <;> rfl

/-- The target of a branch, from the address after it (R93). -/
theorem resolveRelative_ea_toNat {offset : Int} (hl : -128 ≤ offset) (hu : offset ≤ 127) (s : State) :
    ((resolveRelative offset s).ea.toNat : Int) = (((s.pc + 1).toNat : Int) + offset) % 65536 :=
  add_sext16_ofInt (s.pc + 1) hl hu

theorem resolveRelative_crossed (offset : Int) (s : State) :
    (resolveRelative offset s).crossed =
      decide ((resolveRelative offset s).ea.toNat / 256 ≠ (s.pc + 1).toNat / 256) := page_bne _ _

theorem branch_pc_toNat {offset : Int} (hl : -128 ≤ offset) (hu : offset ≤ 127) (cond : Bool) (s : State) :
    ((branch cond offset s).pc.toNat : Int) =
      if cond then (((s.pc + 1).toNat : Int) + offset) % 65536 else ((s.pc + 1).toNat : Int) := by
  rw [branch_pc]
  cases cond
  · rfl
  · exact resolveRelative_ea_toNat hl hu s

/-- The idle cycles of a branch, by the page of the address it has gone to (R180). -/
theorem branchIdles_eq (cond : Bool) (offset : Int) (s : State) :
    branchIdles cond (resolveRelative offset s).crossed =
      if cond then
        if (branch cond offset s).pc.toNat / 256 = (s.pc + 1).toNat / 256 then [.idle] else [.idle, .idle]
      else [] := by
  cases cond
  · rfl
  · rw [resolveRelative_crossed, branch_pc]
    by_cases h : (resolveRelative offset s).ea.toNat / 256 = (s.pc + 1).toNat / 256 <;> simp [branchIdles, h]

/-- Settles O39: the eight rows by looking them up; then every branch is `branch` on the mnemonic's condition. -/
theorem branchesGoToTheSignedOffset : Obligations.BranchesGoToTheSignedOffset := by
  refine ⟨rfl, rfl, rfl, rfl, rfl, rfl, rfl, rfl, ?_⟩
  intro i offset s hf hw next taken
  have ⟨hl, hu⟩ : -128 ≤ offset ∧ offset ≤ 127 := by simpa [wellFormed_of_rel hf, branchOffsetFits] using hw
  have hn : (s.pc + 1).toNat = next := by simp [next, BitVec.toNat_add]
  have he := exec_branch s hf
  obtain ⟨hr, hp, hk, hm⟩ := branch_frame taken offset s
  obtain ⟨t, ht, -, hc⟩ := runsToItsEnd_rel s hf
  obtain rfl : branch taken offset s = t := Host.Outcome.next.inj (he.symm.trans ht)
  refine ⟨_, he, hr, hp, hm, hk, hc, hn ▸ branch_pc_toNat hl hu taken s, ?_⟩
  rw [← hn, ← branchIdles_eq]
  exact performed_branch taken offset s

end Sys2Proof.Machine

/-! The writers of memory (R95; 10_state.md R21; 20_memory.md R53). -/

namespace Sys2Proof.Machine

open Sys2Proof

/-- Cycles change a byte only by a write to its address, and only in RAM (R53). -/
theorem exists_write_of_read_foldl_ne {cs : List BusCycle} {b : Bus} {a : Word}
    (h : Memory.read (cs.foldl Bus.perform b).mem a.toNat ≠ Memory.read b.mem a.toNat) :
    b.kindAt a = .ram ∧ ∃ v, BusCycle.write a v ∈ cs := by
  induction cs generalizing b with
  | nil => exact absurd rfl h
  | cons c rest ih =>
    by_cases hr : Memory.read (rest.foldl Bus.perform (b.perform c)).mem a.toNat = Memory.read (b.perform c).mem a.toNat
    · rw [List.foldl_cons, hr] at h
      cases c with
      | read d v => exact absurd (by rw [Bus.perform_read_mem]) h
      | idle => exact absurd rfl h
      | write d v =>
        obtain rfl : a = d := by_contra fun hd => h (Bus.read_perform_write_other v hd)
        refine ⟨by_contra fun hk => h ?_, v, List.mem_cons_self⟩
        rw [Bus.perform_write_mem, if_neg hk]
    · obtain ⟨hk, v, hv⟩ := ih hr
      exact ⟨by simpa using hk, v, List.mem_cons_of_mem c hv⟩

theorem Performed.exists_write_of_peek_ne {cs : List BusCycle} {s t : State} {a : Word} (h : Performed cs s t)
    (hne : t.peek a ≠ s.peek a) : s.bus.kindAt a = .ram ∧ ∃ v, BusCycle.write a v ∈ cs :=
  exists_write_of_read_foldl_ne (by rwa [← h.2.2])

/-- The mnemonic may write to the address: a store or a read-modify-write anywhere, a push in the stack page (R21, R95). -/
def MemoryWriter (m : Mnemonic) (a : Word) : Prop :=
  m ∈ [.sta, .stx, .sty, .inc, .dec, .asl, .lsr, .rol, .ror] ∨
    m ∈ [.pha, .php, .jsr, .brk] ∧ 0x100 ≤ a.toNat ∧ a.toNat ≤ 0x1FF

/-- The instruction answers a next state by cycles that write only where its mnemonic may. -/
def WritesMemoryListed (i : Instr) (s : State) : Prop :=
  ∃ t cs, exec i s = .next t ∧ Performed cs s t ∧ ∀ a v, BusCycle.write a v ∈ cs → MemoryWriter i.mnemonic a

theorem memoryWriter_stackAddr {m : Mnemonic} (hm : m ∈ [Mnemonic.pha, .php, .jsr, .brk]) (sp : Byte) :
    MemoryWriter m (stackAddr sp) := by
  have := sp.isLt
  exact .inr ⟨hm, by rw [stackAddr_toNat]; omega, by rw [stackAddr_toNat]; omega⟩

theorem writesMemoryListed_of_no_write {i : Instr} {s t : State} {cs : List BusCycle} (he : exec i s = .next t)
    (h : Performed cs s t) (hw : ∀ a v, BusCycle.write a v ∉ cs) : WritesMemoryListed i s :=
  ⟨t, cs, he, h, fun a v hv => absurd hv (hw a v)⟩

/-- A pushing instruction writes at stack addresses alone. -/
theorem writesMemoryListed_of_push {i : Instr} {s t : State} {cs : List BusCycle}
    (hm : i.mnemonic ∈ [Mnemonic.pha, .php, .jsr, .brk]) (he : exec i s = .next t) (h : Performed cs s t)
    (hw : ∀ a v, BusCycle.write a v ∈ cs → ∃ sp, a = stackAddr sp) : WritesMemoryListed i s := by
  refine ⟨t, cs, he, h, fun a v hv => ?_⟩
  obtain ⟨sp, rfl⟩ := hw a v hv
  exact memoryWriter_stackAddr hm sp

theorem writesMemoryListed_jsr (addr : Word) (s : State) : WritesMemoryListed (.jsr addr) s :=
  writesMemoryListed_of_push (by simp [Instr.mnemonic]) rfl (performed_jumpToSubroutine addr s)
    (by simp [or_imp, forall_and])

theorem writesMemoryListed_brk (s : State) : WritesMemoryListed .brk s := by
  obtain ⟨lo, hi, ⟨h, -⟩, -⟩ := brkEntry_spec s
  exact writesMemoryListed_of_push (by decide) rfl h (by simp [or_imp, forall_and])

theorem writesMemoryListed_mem {i : Instr} {o : Operand} (s : State) (hf : i.form = .mem o) :
    WritesMemoryListed i s := by
  rcases mnemonic_of_mem hf with hm | hm | hm | ⟨addr, rfl | rfl⟩
  · obtain ⟨a, x, y, p, he⟩ := exec_readClass s hf hm
    exact writesMemoryListed_of_no_write he (performed_readOperand o s) (readOperandCycles_no_write o s)
  · obtain ⟨v, he⟩ := exec_writeClass s hf hm
    exact ⟨_, _, he, performed_writeOperand o v s, fun _ _ _ => .inl (List.mem_append_left _ hm)⟩
  · obtain ⟨f, he⟩ := exec_rmwClass s hf hm
    exact ⟨_, _, he, performed_modifyOperand f o s, fun _ _ _ => .inl (List.mem_append_right [Mnemonic.sta, .stx, .sty] hm)⟩
  · exact writesMemoryListed_of_no_write rfl (performed_fetchWord addr s) (by simp)
  · exact writesMemoryListed_jsr addr s

theorem writesMemoryListed_imp {i : Instr} (s : State) (hf : i.form = .imp) : WritesMemoryListed i s := by
  rcases exec_imp s hf with ⟨-, r, he⟩ | rfl | rfl | rfl | rfl | rfl | rfl | rfl
  · exact writesMemoryListed_of_no_write he (performed_idle s) (by simp)
  · exact writesMemoryListed_of_push (by decide) rfl (performed_idle_push s.a s) (by simp)
  · exact writesMemoryListed_of_push (by decide) rfl (performed_idle_push s.p.packPhp s) (by simp)
  · exact writesMemoryListed_of_no_write rfl (ran_idle2_pull s).1 (by simp)
  · exact writesMemoryListed_of_no_write rfl (ran_idle2_pull s).1 (by simp)
  · obtain ⟨_, _, ⟨h, -⟩, -⟩ := returnFromSubroutine_spec s
    exact writesMemoryListed_of_no_write rfl h (by simp)
  · obtain ⟨_, _, _, ⟨h, -⟩, -⟩ := returnFromInterrupt_spec s
    exact writesMemoryListed_of_no_write rfl h (by simp)
  · exact writesMemoryListed_brk s

theorem exec_writesMemoryListed (i : Instr) (s : State) : WritesMemoryListed i s := by
  cases hf : i.form with
  | mem o => exact writesMemoryListed_mem s hf
  | rel offset =>
    refine writesMemoryListed_of_no_write (exec_branch s hf) (performed_branch _ offset s) fun a v => ?_
    cases branchTaken i.mnemonic s.p <;> cases (resolveRelative offset s).crossed <;> simp [branchIdles]
  | ind ptr =>
    rw [eq_jmpInd_of_form hf]
    obtain ⟨lo, hi, -, h, -⟩ := performed_jumpIndirect ptr s
    exact writesMemoryListed_of_no_write rfl h (by simp)
  | acc =>
    rcases exec_acc s hf with ⟨-, he⟩ | ⟨-, he⟩ | ⟨-, he⟩ | ⟨-, he⟩ <;>
      exact writesMemoryListed_of_no_write he (performed_idle s) (by simp)
  | imp => exact writesMemoryListed_imp s hf

/-- Settles O55: a byte that has changed was written in RAM by one of the instruction's cycles, and those write only where
the mnemonic may. -/
theorem memoryHasOnlyTheListedWriters : Obligations.MemoryHasOnlyTheListedWriters := by
  intro i s t a h hne
  obtain ⟨u, cs, hu, hp, hw⟩ := exec_writesMemoryListed i s
  obtain rfl : u = t := Host.Outcome.next.inj (hu.symm.trans h)
  obtain ⟨hk, v, hv⟩ := hp.exists_write_of_peek_ne hne
  exact ⟨hk, hw a v hv⟩

end Sys2Proof.Machine

/-! Loads and stores (41_load_store.md R120 to R125). -/

namespace Sys2Proof.Machine

open Sys2Proof Sys2Proof.Laws

/-- A load is its operand read, with the operand byte in the mnemonic's own register and SetZN of it (R120 to R122). -/
theorem exec_load {i : Instr} {o : Operand} (s : State) (hf : i.form = .mem o)
    (hm : i.mnemonic ∈ [Mnemonic.lda, .ldx, .ldy]) :
    exec i s = .next { (readOperand o s).2 with
      a := if i.mnemonic = .lda then operandByte o s else s.a
      x := if i.mnemonic = .ldx then operandByte o s else s.x
      y := if i.mnemonic = .ldy then operandByte o s else s.y
      p := s.p.setZN (operandByte o s) } := by
  simp only [List.mem_cons, List.not_mem_nil, or_false] at hm
  rcases hm with hm | hm | hm
  · simp [exec_lda s hf hm, lda, hm, operandByte, State.setZN, State.setA, State.setP]
  · simp [exec_ldx s hf hm, ldx, hm, operandByte, State.setZN, State.setX, State.setP]
  · simp [exec_ldy s hf hm, ldy, hm, operandByte, State.setZN, State.setY, State.setP]

/-- Settles O25: the rows by looking them up; then the frame of every read-class instruction and SetZN's. -/
theorem loadsTakeTheOperandByteAndSetZN : Obligations.LoadsTakeTheOperandByteAndSetZN := by
  refine ⟨rfl, rfl, rfl, ?_⟩
  intro i o s hf hm
  have hr : accessClassOf i.mnemonic = some .read := accessClassOf_read _ (List.mem_append_left _ hm)
  exact ⟨_, exec_load s hf hm, readsOperand_of_read s hf hr _ _ _ _, onlyZN_setZN _ _, rfl, rfl, rfl⟩

/-- A store is one write-class use of its operand, with the mnemonic's own register (R123 to R125). -/
theorem exec_store {i : Instr} {o : Operand} (s : State) (hf : i.form = .mem o)
    (hm : i.mnemonic ∈ [Mnemonic.sta, .stx, .sty]) :
    exec i s = .next
      (writeOperand o (if i.mnemonic = .sta then s.a else if i.mnemonic = .stx then s.x else s.y) s) := by
  simp only [List.mem_cons, List.not_mem_nil, or_false] at hm
  rcases hm with hm | hm | hm
  · simp [exec_sta s hf hm, sta, hm]
  · simp [exec_stx s hf hm, stx, hm]
  · simp [exec_sty s hf hm, sty, hm]

/-- A write-class operand changes no register and no flag; PC passes the operand bytes (R80, R95). -/
theorem writeOperand_frame (o : Operand) (v : Byte) (s : State) :
    RegistersKept s (writeOperand o v s) ∧ (writeOperand o v s).p = s.p ∧
      (writeOperand o v s).pc = s.pc + BitVec.ofNat 16 o.bytes.length := by
  simp [RegistersKept, writeOperand]

/-- Settles O26: the rows by looking them up; then what a write-class use of the operand stores and keeps, at the cost of
the instruction's row. -/
theorem storesWriteTheRegisterAtTheEffectiveAddress :
    Obligations.StoresWriteTheRegisterAtTheEffectiveAddress := by
  refine ⟨rfl, rfl, rfl, ?_⟩
  intro i o s hf hm hw r v
  have he : exec i s = .next (writeOperand o v s) := exec_store s hf hm
  obtain ⟨hr, hp, hpc⟩ := writeOperand_frame o v s
  obtain ⟨t, ht, hk, hc⟩ := runsToItsEnd_mem s hf
  obtain rfl : writeOperand o v s = t := Host.Outcome.next.inj (he.symm.trans ht)
  exact ⟨_, he, writeOperand_storedAt o v hw, hr, hp, hpc, hk, hc, rfl⟩

end Sys2Proof.Machine

/-! Register transfers (42_transfers.md R130 to R135). -/

namespace Sys2Proof.Machine

open Sys2Proof

/-- Settles O27: the rows by looking them up; then each transfer runs to one idle cycle, the copy and SetZN of the value
copied, whose two flags are read as numbers (R30). -/
theorem transfersCopyAndSetZN : Obligations.TransfersCopyAndSetZN := by
  refine ⟨rfl, rfl, rfl, rfl, rfl, ?_⟩
  intro s zn cy tr
  have hzn (v : Byte) : zn v = s.p.setZN v := (setZN_eq s.p v).symm
  rw [hzn s.a, hzn s.sp, hzn s.x, hzn s.y]
  exact ⟨rfl, rfl, rfl, rfl, rfl⟩

/-- Settles O28: the row by looking it up; then TXS runs to one idle cycle and the copy, with no SetZN. -/
theorem txsCopiesAndLeavesTheFlags : Obligations.TxsCopiesAndLeavesTheFlags := ⟨rfl, fun _ => rfl⟩

end Sys2Proof.Machine

/-! ADC and SBC, binary and decimal (43_arithmetic.md R140 to R143). -/

namespace Sys2Proof.Machine

open Sys2Proof Sys2Proof.Laws

/-! The binary sum of a byte, a byte and a carry, and its flags (R140). -/

/-- A byte read as a signed number: its sign bit counts -256. -/
theorem toInt_eq_toNat_sub (v : Byte) : v.toInt = v.toNat - 256 * (decide (128 ≤ v.toNat)).toNat := by
  rw [BitVec.toInt_eq_toNat_cond]
  by_cases hv : 128 ≤ v.toNat
  · rw [if_neg (by omega)]
    simp [hv]
  · rw [if_pos (by omega)]
    simp [hv]

/-- V of a binary sum is the overflow of the signed sum: with the signs of both bytes fixed, the sign bit of the 8-bit
result is wrong exactly outside -128..127. -/
theorem overflowBit_sum (a m : Byte) (c : Bool) :
    overflowBit a m (BitVec.ofNat 8 (a.toNat + m.toNat + c.toNat)) =
      decide (a.toInt + m.toInt + (c.toNat : Int) < -128 ∨ 127 < a.toInt + m.toInt + (c.toNat : Int)) := by
  have hc : c.toNat ≤ 1 := Bool.toNat_le c
  simp only [overflowBit_eq, bit7_eq, toInt_eq_toNat_sub, BitVec.toNat_ofNat]
  rw [Bool.eq_iff_iff]
  simp only [Bool.and_eq_true, bne_iff_ne, ne_eq, decide_eq_decide, decide_eq_true_eq]
  by_cases ha : 128 ≤ a.toNat <;> by_cases hm : 128 ≤ m.toNat <;>
    simp only [ha, hm, decide_true, decide_false, Bool.toNat_true, Bool.toNat_false, true_iff, false_iff, not_not] <;>
    omega

/-- What binary ADC makes of the accumulator and the flags, as numbers. -/
theorem adcBinary_spec (a m : Byte) (p : Flags) :
    (adcBinary a m p).1 = BitVec.ofNat 8 (a.toNat + m.toNat + p.c.toNat) ∧
      (adcBinary a m p).2.c = decide (256 ≤ a.toNat + m.toNat + p.c.toNat) ∧
      ShowsZN (adcBinary a m p).1 (adcBinary a m p).2 ∧
      (adcBinary a m p).2.v = decide (a.toInt + m.toInt + (p.c.toNat : Int) < -128 ∨
        127 < a.toInt + m.toInt + (p.c.toNat : Int)) ∧
      (adcBinary a m p).2.d = p.d ∧ (adcBinary a m p).2.i = p.i := by
  obtain ⟨hzn, -⟩ := onlyZN_setZN { p with
    v := overflowBit a m (adcBinary a m p).1
    c := decide (0xFF < a.toNat + m.toNat + carryNat p.c) } (adcBinary a m p).1
  refine ⟨?_, ?_, hzn, ?_, rfl, rfl⟩
  · simp [adcBinary, carryNat_eq]
  · simp [adcBinary, Flags.setZN, carryNat_eq, Nat.lt_iff_add_one_le]
  · rw [← overflowBit_sum, ← carryNat_eq]
    rfl

/-! Binary subtraction, which is the sum with the complement of the operand (R142). -/

theorem not_toNat (m : Byte) : (~~~m).toNat = 255 - m.toNat := BitVec.toNat_not

theorem not_toInt (m : Byte) : (~~~m).toInt = -m.toInt - 1 := by
  simp only [BitVec.toInt_eq_toNat_cond, not_toNat]
  omega

/-- The byte of the difference. -/
theorem sum_not_eq_difference (a m : Byte) (c : Bool) :
    BitVec.ofNat 8 (a.toNat + (~~~m).toNat + c.toNat) = BitVec.ofInt 8 (a.toNat - m.toNat - (1 - c.toNat)) := by
  rw [BitVec.toNat_eq, not_toNat, BitVec.toNat_ofInt, BitVec.toNat_ofNat]
  omega

/-- The flags of SBC in both modes, as numbers: those of the binary difference. -/
theorem sbcResult_flags (a m : Byte) (p : Flags) :
    (sbcResult a m p).2.c = decide ((m.toNat : Int) + (1 - p.c.toNat) ≤ a.toNat) ∧
      ShowsZN (BitVec.ofInt 8 (a.toNat - m.toNat - (1 - p.c.toNat))) (sbcResult a m p).2 ∧
      (sbcResult a m p).2.v = decide (a.toInt - m.toInt - (1 - (p.c.toNat : Int)) < -128 ∨
        127 < a.toInt - m.toInt - (1 - (p.c.toNat : Int))) ∧
      (sbcResult a m p).2.d = p.d ∧ (sbcResult a m p).2.i = p.i := by
  obtain ⟨hr, hc, hzn, hv, hd, hi⟩ := adcBinary_spec a (~~~m) p
  rw [hr, sum_not_eq_difference] at hzn
  refine ⟨hc.trans ?_, hzn, hv.trans ?_, hd, hi⟩
  · rw [not_toNat, decide_eq_decide]
    omega
  · rw [not_toInt, decide_eq_decide]
    omega

theorem sbcResult_binary (a m : Byte) {p : Flags} (hd : p.d = false) :
    (sbcResult a m p).1 = BitVec.ofInt 8 (a.toNat - m.toNat - (1 - p.c.toNat)) := by
  rw [← sum_not_eq_difference, ← (adcBinary_spec a (~~~m) p).1]
  simp [sbcResult, hd]

theorem sbcResult_decimal (a m : Byte) {p : Flags} (hd : p.d = true) : (sbcResult a m p).1 = sbcDecimal a m p.c := by
  simp [sbcResult, hd]

/-! The result by the mode flag. -/

theorem adcResult_binary (a m : Byte) {p : Flags} (hd : p.d = false) : adcResult a m p = adcBinary a m p := by
  simp [adcResult, hd]

theorem adcResult_decimal (a m : Byte) {p : Flags} (hd : p.d = true) : adcResult a m p = adcDecimal a m p := by
  simp [adcResult, hd]

/-- Neither ADC writes D or I. -/
theorem adcResult_keeps_d_i (a m : Byte) (p : Flags) :
    (adcResult a m p).2.d = p.d ∧ (adcResult a m p).2.i = p.i := by
  obtain ⟨-, -, hd, hi, -⟩ := flagWriters_adcResult a m p
  exact ⟨by simpa using hd, by simpa using hi⟩

/-! The masks of R141 on a byte as a number. -/

theorem and_0x0F (n : Nat) : n &&& 0x0F = n % 16 := Nat.and_two_pow_sub_one_eq_mod n 4

theorem toNat_and_0xF0 : ∀ v : Byte, v.toNat &&& 0xF0 = v.toNat / 16 * 16 := by decide

/-- The mask of a number with `$80` tests its bit 7. -/
theorem nat_and_0x80_ne_zero (n : Nat) : decide (n &&& 0x80 ≠ 0) = n.testBit 7 := by
  rw [show (0x80 : Nat) = 2 ^ 7 from rfl, Nat.and_two_pow]
  cases n.testBit 7 <;> rfl

/-- The overflow formula on the low byte of a number is the same formula on the number (R141). -/
theorem overflowBit_ofNat (a m : Byte) (n : Nat) :
    overflowBit a m (BitVec.ofNat 8 n) = decide ((a.toNat ^^^ n) &&& (m.toNat ^^^ n) &&& 0x80 ≠ 0) := by
  rw [nat_and_0x80_ne_zero, Nat.testBit_and, Nat.testBit_xor, Nat.testBit_xor, overflowBit_eq, bit7_ofNat]
  rfl

/-- The adjusted sum of the low digits in R141's own masks. -/
theorem decimalAddLow_eq_masks (a m : Byte) (c : Bool) :
    decimalAddLow a m c =
      (let al0 := (a.toNat &&& 0x0F) + (m.toNat &&& 0x0F) + c.toNat
       if 0x0A ≤ al0 then ((al0 + 0x06) &&& 0x0F) + 0x10 else al0) := by
  simp only [decimalAddLow, and_0x0F, carryNat_eq]

/-- R141's `t` in its own masks. -/
theorem decimalAddMid_eq_masks (a m : Byte) (c : Bool) :
    decimalAddMid a m c = (a.toNat &&& 0xF0) + (m.toNat &&& 0xF0) + decimalAddLow a m c := by
  simp only [decimalAddMid, toNat_and_0xF0]

/-- What decimal ADC makes of the accumulator and the flags, as numbers over R141's `t` and the adjusted `t`. -/
theorem adcDecimal_spec (a m : Byte) (p : Flags) {t u : Nat} (ht : t = decimalAddMid a m p.c)
    (hu : u = if 0xA0 ≤ t then t + 0x60 else t) :
    (adcDecimal a m p).1.toNat = u % 256 ∧ (adcDecimal a m p).2.c = decide (0x100 ≤ u) ∧
      (adcDecimal a m p).2.z = decide ((a.toNat + m.toNat + p.c.toNat) % 256 = 0) ∧
      (adcDecimal a m p).2.n = t.testBit 7 ∧
      (adcDecimal a m p).2.v = decide ((a.toNat ^^^ t) &&& (m.toNat ^^^ t) &&& 0x80 ≠ 0) := by
  subst hu ht
  refine ⟨BitVec.toNat_ofNat _ _, rfl, ?_, bit7_ofNat _, overflowBit_ofNat _ _ _⟩
  rw [Bool.eq_iff_iff]
  simp [adcDecimal, carryNat_eq, BitVec.toNat_eq]

/-! The instructions. -/

/-- The frame of ADC and SBC: a read-class operand, then new values of A and P only. -/
theorem readsOperand_setA_setP {i : Instr} {o : Operand} (s : State) (hf : i.form = .mem o)
    (hr : accessClassOf i.mnemonic = some .read) (a : Byte) (p : Flags) :
    ReadsOperand i o s (((readOperand o s).2.setA a).setP p) :=
  readsOperand_of_read s hf hr a (readOperand o s).2.x (readOperand o s).2.y p

/-- Settles O29: the rows by looking them up; then the frame of every read-class instruction, and in each mode the
result and flags of the sum as numbers. -/
theorem adcBinaryAndDecimal : Obligations.AdcBinaryAndDecimal := by
  refine ⟨rfl, ?_⟩
  intro i o s hf hm a m c
  have hr : accessClassOf i.mnemonic = some .read := accessClassOf_read _ (by simp [hm])
  obtain ⟨hd, hi⟩ := adcResult_keeps_d_i s.a (operandByte o s) s.p
  refine ⟨adc o s, exec_adc s hf hm, readsOperand_setA_setP s hf hr _ _, readOperand_x o s, readOperand_y o s, hd, hi,
    ?_, ?_⟩
  · intro hbin
    obtain ⟨ha, hc, hzn, hv, -⟩ := adcBinary_spec s.a (operandByte o s) s.p
    rw [← adcResult_binary _ _ hbin] at ha hc hzn hv
    exact ⟨(congrArg BitVec.toNat ha).trans (BitVec.toNat_ofNat _ _), hc, hzn, hv⟩
  · intro hdec al0 al u u'
    have hu : u = decimalAddMid s.a (operandByte o s) s.p.c := by
      rw [decimalAddMid_eq_masks, decimalAddLow_eq_masks]
    have h := adcDecimal_spec s.a (operandByte o s) s.p hu rfl
    rw [← adcResult_decimal _ _ hdec] at h
    exact h

/-- SBC's decimal accumulator by R143's arithmetic on signed intermediates. -/
theorem sbcDecimal_eq (a m : Byte) (c : Bool) :
    sbcDecimal a m c =
      (let al0 : Int := (a.toNat : Int) % 16 - m.toNat % 16 + c.toNat - 1
       let al := if al0 < 0 then (al0 - 0x06) % 16 - 0x10 else al0
       let u := (a.toNat - (a.toNat : Int) % 16) - (m.toNat - (m.toNat : Int) % 16) + al
       BitVec.ofInt 8 (if u < 0 then u - 0x60 else u)) := by
  have hhigh (v : Byte) : ((v.toNat / 16 * 16 : Nat) : Int) = v.toNat - (v.toNat : Int) % 16 := by omega
  simp only [sbcDecimal, decimalSubLow, hhigh, carryNat_eq, Int.natCast_emod, Nat.cast_ofNat]

/-- Settles O31: the rows by looking them up; then the frame of every read-class instruction, the flags of the binary
difference, and the accumulator in each mode. -/
theorem sbcBinaryAndDecimal : Obligations.SbcBinaryAndDecimal := by
  refine ⟨rfl, ?_⟩
  intro i o s hf hm a m c r
  have hr : accessClassOf i.mnemonic = some .read := accessClassOf_read _ (by simp [hm])
  obtain ⟨hc, hzn, hv, hd, hi⟩ := sbcResult_flags s.a (operandByte o s) s.p
  exact ⟨sbc o s, exec_sbc s hf hm, readsOperand_setA_setP s hf hr _ _, readOperand_x o s, readOperand_y o s, hd, hi,
    hc, hzn, hv, sbcResult_binary _ _, fun hdec => (sbcResult_decimal _ _ hdec).trans (sbcDecimal_eq _ _ _)⟩

/-! Valid BCD operands: the digits of a number in 0..99 as the two halves of a byte (R141, R143). -/

/-- The BCD code of a number below 100. -/
def bcdByte (n : Nat) : Byte := BitVec.ofNat 8 (16 * (n / 10) + n % 10)

theorem bcdByte_toNat {n : Nat} (h : n < 100) : (bcdByte n).toNat = 16 * (n / 10) + n % 10 := by
  rw [bcdByte, BitVec.toNat_ofNat]
  omega

/-- The adjusted sum of the low digits is their sum in BCD: its carry stands in bit 4. -/
theorem decimalAddLow_bcdByte {x y : Nat} (hx : x < 100) (hy : y < 100) (c : Bool) :
    decimalAddLow (bcdByte x) (bcdByte y) c =
      16 * ((x % 10 + y % 10 + c.toNat) / 10) + (x % 10 + y % 10 + c.toNat) % 10 := by
  have hc : c.toNat ≤ 1 := Bool.toNat_le c
  simp only [decimalAddLow, bcdByte_toNat hx, bcdByte_toNat hy, carryNat_eq]
  split <;> omega

/-- R141's `t` is the sum in BCD, its tens still a number up to 19. -/
theorem decimalAddMid_bcdByte {x y : Nat} (hx : x < 100) (hy : y < 100) (c : Bool) :
    decimalAddMid (bcdByte x) (bcdByte y) c = 16 * ((x + y + c.toNat) / 10) + (x + y + c.toNat) % 10 := by
  have hc : c.toNat ≤ 1 := Bool.toNat_le c
  rw [decimalAddMid, decimalAddLow_bcdByte hx hy, bcdByte_toNat hx, bcdByte_toNat hy]
  omega

/-- Settles O30: with `t` the BCD of the sum, the high-digit adjustment takes 100 away, as the carry out of bit 7. -/
theorem decimalAdcAddsBcdNumbers : Obligations.DecimalAdcAddsBcdNumbers := by
  intro x y p hx hy hd
  change (adcResult (bcdByte x) (bcdByte y) p).1 = bcdByte _ ∧ (adcResult (bcdByte x) (bcdByte y) p).2.c = _
  have hc : p.c.toNat ≤ 1 := Bool.toNat_le p.c
  obtain ⟨ha, hcarry, -⟩ := adcDecimal_spec (bcdByte x) (bcdByte y) p (decimalAddMid_bcdByte hx hy p.c).symm rfl
  rw [adcResult_decimal _ _ hd, hcarry, decide_eq_decide, BitVec.toNat_eq, ha, bcdByte_toNat (Nat.mod_lt _ (by omega))]
  by_cases hs : 100 ≤ x + y + p.c.toNat
  · rw [if_pos (by omega)]
    omega
  · rw [if_neg (by omega)]
    omega

/-- The adjusted difference of the low digits is that difference in BCD: its borrow stands in bit 4. -/
theorem decimalSubLow_bcdByte {x y : Nat} (hx : x < 100) (hy : y < 100) (c : Bool) :
    decimalSubLow (bcdByte x) (bcdByte y) c =
      16 * (((x % 10 : Nat) - (y % 10 : Nat) - (1 - c.toNat) : Int) / 10) +
        ((x % 10 : Nat) - (y % 10 : Nat) - (1 - c.toNat) : Int) % 10 := by
  have hc : c.toNat ≤ 1 := Bool.toNat_le c
  simp only [decimalSubLow, bcdByte_toNat hx, bcdByte_toNat hy, carryNat_eq]
  split <;> omega

/-- R143's `t` is the signed difference in BCD, its tens -10 to 9. -/
theorem decimalSubMid_bcdByte {x y : Nat} (hx : x < 100) (hy : y < 100) (c : Bool) :
    (((bcdByte x).toNat / 16 * 16 : Nat) - ((bcdByte y).toNat / 16 * 16 : Nat) : Int) +
        decimalSubLow (bcdByte x) (bcdByte y) c =
      16 * ((x - y - (1 - c.toNat) : Int) / 10) + (x - y - (1 - c.toNat) : Int) % 10 := by
  have hc : c.toNat ≤ 1 := Bool.toNat_le c
  rw [decimalSubLow_bcdByte hx hy, bcdByte_toNat hx, bcdByte_toNat hy]
  omega

/-- Decimal subtraction of BCD codes: the high-digit adjustment adds 100 to a negative difference, as a borrow into
bit 8. -/
theorem sbcDecimal_bcdByte {x y : Nat} (hx : x < 100) (hy : y < 100) (c : Bool) :
    sbcDecimal (bcdByte x) (bcdByte y) c = bcdByte ((x + 100 - y - (1 - c.toNat)) % 100) := by
  have hc : c.toNat ≤ 1 := Bool.toNat_le c
  rw [sbcDecimal, decimalSubMid_bcdByte hx hy, BitVec.toNat_eq, BitVec.toNat_ofInt,
    bcdByte_toNat (Nat.mod_lt _ (by omega))]
  by_cases hd : (x - y - (1 - c.toNat) : Int) < 0
  · rw [if_pos (by omega), Nat.mod_eq_of_lt (by omega)]
    omega
  · rw [if_neg (by omega)]
    omega

/-- Settles O32: the accumulator is the decimal difference of BCD codes, and C compares the codes, whose order is that of
the numbers. -/
theorem decimalSbcSubtractsBcdNumbers : Obligations.DecimalSbcSubtractsBcdNumbers := by
  intro x y p hx hy hd
  change (sbcResult (bcdByte x) (bcdByte y) p).1 = bcdByte _ ∧ (sbcResult (bcdByte x) (bcdByte y) p).2.c = _
  have hc : p.c.toNat ≤ 1 := Bool.toNat_le p.c
  refine ⟨(sbcResult_decimal _ _ hd).trans (sbcDecimal_bcdByte hx hy p.c), ?_⟩
  rw [(sbcResult_flags _ _ _).1, decide_eq_decide, bcdByte_toNat hx, bcdByte_toNat hy]
  omega

end Sys2Proof.Machine

/-! Logic, increments and decrements (44_logic_incdec.md R150 to R158). -/

namespace Sys2Proof.Machine

open Sys2Proof Sys2Proof.Laws

/-! AND, ORA, EOR. -/

/-- The bitwise operation of a logic mnemonic on the accumulator and the operand (R150 to R152). -/
def logicOp (m : Mnemonic) : Byte → Byte → Byte :=
  if m = .and then (· &&& ·) else if m = .ora then (· ||| ·) else (· ^^^ ·)

/-- A logic instruction is the shared operation, with the mnemonic's own bitwise function. -/
theorem exec_logic {i : Instr} {o : Operand} (s : State) (hf : i.form = .mem o)
    (hm : i.mnemonic ∈ [Mnemonic.and, .ora, .eor]) : exec i s = .next (logicWith (logicOp i.mnemonic) o s) := by
  simp only [List.mem_cons, List.not_mem_nil, or_false] at hm
  rcases hm with hm | hm | hm
  · rw [exec_and s hf hm, hm]
    rfl
  · rw [exec_ora s hf hm, hm]
    rfl
  · rw [exec_eor s hf hm, hm]
    rfl

theorem getLsbD_logicOp (mn : Mnemonic) (a m : Byte) (k : Nat) :
    (logicOp mn a m).getLsbD k =
      if mn = .and then a.getLsbD k && m.getLsbD k
      else if mn = .ora then a.getLsbD k || m.getLsbD k
      else a.getLsbD k ^^ m.getLsbD k := by
  unfold logicOp
  split_ifs
  · exact BitVec.getLsbD_and
  · exact BitVec.getLsbD_or
  · exact BitVec.getLsbD_xor

/-- What a logic operation leaves: the operand read, with a new accumulator and SetZN of it (R30). -/
theorem logicWith_eq (f : Byte → Byte → Byte) (o : Operand) (s : State) :
    logicWith f o s = { (readOperand o s).2 with
      a := f s.a (operandByte o s)
      p := s.p.setZN (f s.a (operandByte o s)) } := by
  simp [logicWith, operandByte, State.setZN, State.setA, State.setP]

/-- Settles O33: the rows by looking them up; then the frame of every read-class instruction and SetZN's, and the bits of
the mnemonic's operation. -/
theorem logicOperationsOnTheAccumulator : Obligations.LogicOperationsOnTheAccumulator := by
  refine ⟨rfl, rfl, rfl, ?_⟩
  intro i o s hf hm m
  have hr : accessClassOf i.mnemonic = some .read :=
    accessClassOf_read _ (List.mem_append_right [Mnemonic.lda, .ldx, .ldy, .adc, .sbc] (List.mem_append_left _ hm))
  have he := exec_logic s hf hm
  rw [logicWith_eq] at he
  exact ⟨_, he, readsOperand_of_read s hf hr _ _ _ _, readOperand_x o s, readOperand_y o s, onlyZN_setZN _ _,
    fun k _ => getLsbD_logicOp i.mnemonic s.a m k⟩

/-! One more and one less than a byte, modulo 256 (R153 to R158). -/

theorem add_one_eq_ofNat (v : Byte) : v + 1 = BitVec.ofNat 8 (v.toNat + 1) := BitVec.add_def v 1

theorem sub_one_eq_ofNat (v : Byte) : v - 1 = BitVec.ofNat 8 (v.toNat + 255) :=
  (BitVec.sub_def v 1).trans (congrArg (BitVec.ofNat 8) (Nat.add_comm 255 v.toNat))

theorem incResult_toNat (v : Byte) (p : Flags) : (incResult v p).1.toNat = (v.toNat + 1) % 256 := by
  rw [incResult, add_one_eq_ofNat, BitVec.toNat_ofNat]

theorem decResult_toNat (v : Byte) (p : Flags) : (decResult v p).1.toNat = (v.toNat + 255) % 256 := by
  rw [decResult, sub_one_eq_ofNat, BitVec.toNat_ofNat]

/-! INC and DEC of memory. -/

/-- The frame of every read-modify-write instruction, whatever function it applies to the byte it finds (R61, R95). -/
theorem modifiesOperand_of_exec {i : Instr} {o : Operand} {f : Byte → Flags → Byte × Flags} {s : State}
    (hf : i.form = .mem o) (he : exec i s = .next (modifyOperand f o s)) (hw : s.bus.mem.wf = true) :
    ModifiesOperand i o (oldByte o s) (f (oldByte o s) s.p).1 s (modifyOperand f o s) := by
  obtain ⟨t, ht, hk, hc⟩ := runsToItsEnd_mem s hf
  obtain rfl : modifyOperand f o s = t := Host.Outcome.next.inj (he.symm.trans ht)
  have hregs : RegistersKept s (modifyOperand f o s) := by simp [RegistersKept, modifyOperand]
  have hpc : (modifyOperand f o s).pc = s.pc + BitVec.ofNat 16 o.bytes.length := by simp [modifyOperand]
  have htrace : (modifyOperand f o s).trace = (resolve o .rmw s).after.trace ++ modifyCycles f o s := by
    simp [modifyOperand, modifyCycles, oldByte]
  exact ⟨rfl, modifyOperand_storedAt f o hw, hregs, hpc, hk, hc, htrace⟩

/-- INC and DEC are read-modify-write uses of the operand whose function adds 1 or 255 modulo 256 and sets Z and N of the
new byte. -/
theorem exec_incDec {i : Instr} {o : Operand} (s : State) (hf : i.form = .mem o)
    (hm : i.mnemonic ∈ [Mnemonic.inc, .dec]) :
    ∃ f, exec i s = .next (modifyOperand f o s) ∧ ∀ v p, (f v p).2 = p.setZN (f v p).1 ∧
      (f v p).1.toNat = (v.toNat + if i.mnemonic = .inc then 1 else 255) % 256 := by
  simp only [List.mem_cons, List.not_mem_nil, or_false] at hm
  rcases hm with hm | hm
  · exact ⟨incResult, exec_inc s hf hm, fun v p => ⟨rfl, by rw [hm]; exact incResult_toNat v p⟩⟩
  · exact ⟨decResult, exec_dec s hf hm, fun v p => ⟨rfl, by rw [hm]; exact decResult_toNat v p⟩⟩

/-- Settles O34: the rows by looking them up; then the frame of every read-modify-write instruction, and the function of
the mnemonic on the byte found. -/
theorem incAndDecOfMemory : Obligations.IncAndDecOfMemory := by
  refine ⟨rfl, rfl, ?_⟩
  intro i o s hf hm hw
  obtain ⟨f, he, hfun⟩ := exec_incDec s hf hm
  obtain ⟨hp, hnew⟩ := hfun (oldByte o s) s.p
  have hzn : OnlyZN (f (oldByte o s) s.p).1 s.p (modifyOperand f o s).p := by
    rw [modifyOperand_p, hp]
    exact onlyZN_setZN _ _
  exact ⟨_, _, _, he, modifiesOperand_of_exec hf he hw, hzn, hnew⟩

/-! INX, INY, DEX, DEY. -/

/-- Settles O35: the rows by looking them up; then each instruction runs to one idle cycle, the new register and SetZN of
it, all read as numbers (R30). -/
theorem incAndDecOfIndexRegisters : Obligations.IncAndDecOfIndexRegisters := by
  refine ⟨rfl, rfl, rfl, rfl, ?_⟩
  intro s up down zn cy tr
  have hzn (v : Byte) : zn v = s.p.setZN v := (setZN_eq s.p v).symm
  have hup (v : Byte) : up v = v + 1 := (add_one_eq_ofNat v).symm
  have hdown (v : Byte) : down v = v - 1 := (sub_one_eq_ofNat v).symm
  rw [hup s.x, hup s.y, hdown s.x, hdown s.y, hzn, hzn, hzn, hzn]
  exact ⟨rfl, rfl, rfl, rfl⟩

end Sys2Proof.Machine


/-! Shifts and rotates (45_shifts.md R160 to R163). -/

namespace Sys2Proof.Machine

open Sys2Proof Sys2Proof.Laws

/-! The values shifted and the bit shifted out, as numbers. -/

theorem toNat_shiftLeft_one (v : Byte) : (v <<< 1).toNat = 2 * v.toNat % 256 := by
  rw [BitVec.toNat_shiftLeft, Nat.shiftLeft_eq, Nat.mul_comm]

theorem toNat_shiftRight_one (v : Byte) : (v >>> 1).toNat = v.toNat / 2 := by
  rw [BitVec.toNat_ushiftRight, Nat.shiftRight_eq_div_pow, Nat.pow_one]

theorem toNat_carryByte (c : Bool) : ((BitVec.ofBool c).setWidth 8).toNat = c.toNat := by cases c <;> rfl

theorem toNat_carryByte_shiftLeft_seven (c : Bool) :
    ((BitVec.ofBool c).setWidth 8 <<< 7).toNat = 2 ^ 7 * c.toNat := by cases c <;> rfl

/-- The old carry fills the bit 0 that a shift left empties (R162). -/
theorem toNat_rotateLeft (v : Byte) (c : Bool) :
    (v <<< 1 ||| (BitVec.ofBool c).setWidth 8).toNat = 2 * v.toNat % 256 + c.toNat := by
  have heven : 2 * v.toNat % 256 = 2 ^ 1 * (v.toNat % 128) := Nat.mul_mod_mul_left 2 v.toNat 128
  have hc : c.toNat < 2 ^ 1 := Bool.toNat_lt c
  rw [BitVec.toNat_or, toNat_shiftLeft_one, toNat_carryByte, heven, Nat.two_pow_add_eq_or_of_lt hc]

/-- The old carry fills the bit 7 that a shift right empties (R163). -/
theorem toNat_rotateRight (v : Byte) (c : Bool) :
    (v >>> 1 ||| (BitVec.ofBool c).setWidth 8 <<< 7).toNat = v.toNat / 2 + 128 * c.toNat := by
  have hv : v.toNat / 2 < 2 ^ 7 := by omega
  rw [BitVec.toNat_or, toNat_shiftRight_one, toNat_carryByte_shiftLeft_seven, Nat.or_comm,
    ← Nat.two_pow_add_eq_or_of_lt hv, Nat.add_comm]

/-- Bit 0 of a byte as a test on its number. -/
theorem getLsbD_zero_eq (v : Byte) : v.getLsbD 0 = decide (v.toNat % 2 = 1) := Nat.testBit_zero v.toNat

/-! The four value functions. -/

/-- `f` is the value function of the shift or rotate `m`: the new byte and the carry out are the rule's, the flags get that
carry and SetZN of the new byte. -/
def IsShiftOf (m : Mnemonic) (f : Byte → Flags → Byte × Flags) : Prop :=
  ∀ v p, ∃ new cout, ShiftsTo m p.c v new cout ∧ f v p = (new, { p with c := cout }.setZN new)

theorem isShiftOf_asl : IsShiftOf .asl aslResult := fun v _ =>
  ⟨_, _, ⟨fun _ => ⟨toNat_shiftLeft_one v, bit7_eq v⟩, nofun, nofun, nofun⟩, rfl⟩

theorem isShiftOf_lsr : IsShiftOf .lsr lsrResult := fun v _ =>
  ⟨_, _, ⟨nofun, fun _ => ⟨toNat_shiftRight_one v, getLsbD_zero_eq v⟩, nofun, nofun⟩, rfl⟩

theorem isShiftOf_rol : IsShiftOf .rol rolResult := fun v p =>
  ⟨_, _, ⟨nofun, nofun, fun _ => ⟨toNat_rotateLeft v p.c, bit7_eq v⟩, nofun⟩, rfl⟩

theorem isShiftOf_ror : IsShiftOf .ror rorResult := fun v p =>
  ⟨_, _, ⟨nofun, nofun, nofun, fun _ => ⟨toNat_rotateRight v p.c, getLsbD_zero_eq v⟩⟩, rfl⟩

/-! The instructions. -/

/-- An accumulator-mode instruction applies its mnemonic's value function to A. -/
theorem exec_shift_acc {i : Instr} (s : State) (hf : i.form = .acc) :
    ∃ f, exec i s = .next (modifyAccumulator f s) ∧ IsShiftOf i.mnemonic f := by
  rcases exec_acc s hf with ⟨hm, he⟩ | ⟨hm, he⟩ | ⟨hm, he⟩ | ⟨hm, he⟩ <;> rw [hm]
  exacts [⟨_, he, isShiftOf_asl⟩, ⟨_, he, isShiftOf_lsr⟩, ⟨_, he, isShiftOf_rol⟩, ⟨_, he, isShiftOf_ror⟩]

/-- A shift or rotate of memory is a read-modify-write use of its operand by its mnemonic's value function. -/
theorem exec_shift_mem {i : Instr} {o : Operand} (s : State) (hf : i.form = .mem o)
    (hm : i.mnemonic ∈ [Mnemonic.asl, .lsr, .rol, .ror]) :
    ∃ f, exec i s = .next (modifyOperand f o s) ∧ IsShiftOf i.mnemonic f := by
  simp only [List.mem_cons, List.not_mem_nil, or_false] at hm
  rcases hm with hm | hm | hm | hm <;> rw [hm]
  exacts [⟨_, exec_asl s hf hm, isShiftOf_asl⟩, ⟨_, exec_lsr s hf hm, isShiftOf_lsr⟩,
    ⟨_, exec_rol s hf hm, isShiftOf_rol⟩, ⟨_, exec_ror s hf hm, isShiftOf_ror⟩]

/-- Settles O36: the rows by looking them up; then both kinds of forms apply the mnemonic's value function, the one to A
beside one idle cycle, the other in the frame of every read-modify-write instruction. -/
theorem shiftsOfTheAccumulatorAndOfMemory : Obligations.ShiftsOfTheAccumulatorAndOfMemory := by
  refine ⟨rfl, rfl, rfl, rfl, ?_, ?_⟩
  · intro i s hf
    obtain ⟨f, he, hfun⟩ := exec_shift_acc s hf
    obtain ⟨new, cout, hshift, hfv⟩ := hfun s.a s.p
    refine ⟨new, cout, hshift, ?_⟩
    rw [he, modifyAccumulator, hfv, setZN_eq]
    rfl
  · intro i o s hf hm hw
    obtain ⟨f, he, hfun⟩ := exec_shift_mem s hf hm
    obtain ⟨new, cout, hshift, hfv⟩ := hfun (oldByte o s) s.p
    have hmod := modifiesOperand_of_exec hf he hw
    have hp : (modifyOperand f o s).p = { s.p with c := cout }.setZN new := by rw [modifyOperand_p, hfv]
    rw [hfv] at hmod
    obtain ⟨hzn, hv, hd, hi, hc⟩ := onlyZN_setZN { s.p with c := cout } new
    rw [← hp] at hzn hv hd hi hc
    exact ⟨_, _, new, he, hmod, hc ▸ hshift, hzn, hv, hd, hi⟩

end Sys2Proof.Machine


/-! Compares and BIT (46_compare_bit.md R170 to R173). -/

namespace Sys2Proof.Machine

open Sys2Proof Sys2Proof.Laws

/-- What an operation that changes only the flags leaves: the frame of every read-class instruction, and the registers. -/
theorem readsOperand_setP {i : Instr} {o : Operand} (s : State) (hf : i.form = .mem o)
    (hm : accessClassOf i.mnemonic = some .read) (p : Flags) :
    ReadsOperand i o s ((readOperand o s).2.setP p) ∧ RegistersKept s ((readOperand o s).2.setP p) :=
  ⟨readsOperand_of_read s hf hm _ _ _ p, readOperand_a o s, readOperand_x o s, readOperand_y o s, readOperand_sp o s⟩

theorem beq_eq_decide_toNat (v w : Byte) : (v == w) = decide (v.toNat = w.toNat) := by
  rw [Bool.eq_iff_iff, beq_iff_eq, decide_eq_true_iff, BitVec.toNat_eq]

/-! CMP, CPX, CPY. -/

/-- A compare is the shared operation on the register of its mnemonic (R170 to R172). -/
theorem exec_compare {i : Instr} {o : Operand} (s : State) (hf : i.form = .mem o)
    (hm : i.mnemonic ∈ [Mnemonic.cmp, .cpx, .cpy]) :
    exec i s = .next
      (compareWith (if i.mnemonic = .cmp then s.a else if i.mnemonic = .cpx then s.x else s.y) o s) := by
  simp only [List.mem_cons, List.not_mem_nil, or_false] at hm
  rcases hm with hm | hm | hm
  · simp [exec_cmp s hf hm, hm]
  · simp [exec_cpx s hf hm, hm]
  · simp [exec_cpy s hf hm, hm]

/-- N of a compare, as a number: bit 7 of the difference modulo 256. -/
theorem compareFlags_n (r m : Byte) (p : Flags) :
    (compareFlags r m p).n = decide (128 ≤ (r.toNat + 256 - m.toNat) % 256) := by
  have hd : (r - m).toNat = (r.toNat + 256 - m.toNat) % 256 := by
    rw [BitVec.toNat_sub]
    omega
  rw [compareFlags, bit7_eq, hd]

/-- Settles O37: the rows by looking them up; then the frame of an operation on the flags, and the flags of the
compare. -/
theorem comparesSetCarryZeroNegative : Obligations.ComparesSetCarryZeroNegative := by
  refine ⟨rfl, rfl, rfl, ?_⟩
  intro i o s hf hm reg m
  have hr : accessClassOf i.mnemonic = some .read :=
    accessClassOf_read _ (List.mem_append_right [Mnemonic.lda, .ldx, .ldy, .adc, .sbc, .and, .ora, .eor]
      (List.mem_append_left [Mnemonic.bit] hm))
  obtain ⟨hread, hregs⟩ := readsOperand_setP s hf hr (compareFlags _ (operandByte o s) s.p)
  exact ⟨_, exec_compare s hf hm, hread, hregs, rfl, beq_eq_decide_toNat _ _, compareFlags_n _ _ s.p, rfl, rfl, rfl⟩

/-! BIT. -/

/-- Bit 6 of a byte as a test on its number. -/
theorem getLsbD_six_eq (v : Byte) : v.getLsbD 6 = decide (64 ≤ v.toNat % 128) := by
  rw [BitVec.getLsbD, Nat.testBit_eq_decide_div_mod_eq, decide_eq_decide]
  omega

/-- Settles O38: the rows by looking them up; then the frame of an operation on the flags, and the bits of the operand
that BIT shows. -/
theorem bitTestsTheOperand : Obligations.BitTestsTheOperand := by
  refine ⟨rfl, ?_⟩
  intro i o s hf hm m
  have hr : accessClassOf i.mnemonic = some .read := accessClassOf_read _ (by simp [hm])
  obtain ⟨hread, hregs⟩ := readsOperand_setP s hf hr (bitFlags s.a (operandByte o s) s.p)
  exact ⟨_, exec_bit s hf hm, hread, hregs, beq_eq_decide_toNat _ _, bit7_eq m, getLsbD_six_eq m, rfl, rfl, rfl⟩

end Sys2Proof.Machine

/-! Every instruction: it completes, in the cycles of its row (60_exceptions.md R241; 70_reset_and_hazards.md R266). -/

namespace Sys2Proof.Machine

open Sys2Proof

/-- Settles O52: the half of `exec_runsToItsEnd` about the cycles. -/
theorem everyInstructionTakesItsCycles : Obligations.EveryInstructionTakesItsCycles := by
  intro i s t h
  obtain ⟨u, hu, -, hc⟩ := exec_runsToItsEnd i s
  exact Host.Outcome.next.inj (hu.symm.trans h) ▸ hc

/-- Settles O51: the half of `exec_runsToItsEnd` about the control fields. -/
theorem everyInstructionCompletes : Obligations.EveryInstructionCompletes := by
  intro i s
  obtain ⟨t, ht, hk, -⟩ := exec_runsToItsEnd i s
  exact ⟨t, ht, hk⟩

end Sys2Proof.Machine

/-! What a step answers, by what stands at the boundary: an interrupt to take, a legal opcode byte, an illegal one
(60_exceptions.md R230, R239). -/

namespace Sys2Proof.Machine

open Sys2Proof

theorem sampledInterrupt_begin_eq_none_iff {s : State} :
    sampledInterrupt s.begin = none ↔ s.pendingNmi = false ∧ (s.pendingIrq = false ∨ s.p.i = true) := by
  rw [sampledInterrupt_begin]
  cases s.pendingNmi <;> cases s.pendingIrq <;> cases s.p.i <;> decide

/-- The opcode byte alone decides whether a fetch is refused (R76). -/
theorem fetchInstr_eq_error_iff {s : State} :
    (∃ r, fetchInstr s = .error r) ↔ opcodeByte s ∈ illegalOpcodeBytes := by
  rw [← dispatchTable_eq_none_iff]
  constructor
  · rintro ⟨r, h⟩
    exact instrOf_eq_none_iff.1 (fetchInstr_error h)
  · intro h
    cases hf : fetchInstr s with
    | error r => exact ⟨r, rfl⟩
    | ok i =>
      rw [← (fetchInstr_ok hf).1, (instr_tableRow i).1] at h
      cases h

theorem step_of_sampled {s : State} {source : InterruptSource} (hp : s.phase = .boundary)
    (h : sampledInterrupt s.begin = some source) : step s = .next (serviceInterrupt source s.begin) := by
  simp only [step, hp, stepAtBoundary, h]

theorem step_of_fetched {s : State} {i : Instr} (hp : s.phase = .boundary) (hs : sampledInterrupt s.begin = none)
    (h : fetchInstr s.begin = .ok i) : step s = exec i (opcodeFetched s.begin) := by
  simp only [step, hp, stepAtBoundary, hs, h]

theorem step_of_illegal {s : State} (hp : s.phase = .boundary) (hs : sampledInterrupt s.begin = none)
    (h : s.bus.value s.pc ∈ illegalOpcodeBytes) :
    step s = .fault (.illegalOpcode (s.bus.value s.pc) s.pc (opcodeRead s.begin)) := by
  obtain ⟨r, hr⟩ := fetchInstr_eq_error_iff (s := s.begin) |>.2 h
  simp only [step, hp, stepAtBoundary, hs, hr]
  rfl

/-- The state after the opcode fetch, in a request of its own (R230). -/
theorem opcodeFetched_begin (s : State) :
    opcodeFetched s.begin = { s with
      pc := s.pc + 1
      cycles := s.cycles + 1
      bus := s.bus.perform (.read s.pc (s.bus.value s.pc))
      trace := [.read s.pc (s.bus.value s.pc)]
      result := some (.executed (s.bus.value s.pc)) } := rfl

/-- Settles O7: the bytes the bus answers in turn are the ones the fetch decodes. -/
theorem stepRunsTheDecodedInstruction : Obligations.StepRunsTheDecodedInstruction := by
  intro s b0 b1 b2 i rest hp hn hi hans hd
  obtain ⟨rfl, rfl, rfl, -⟩ := hans
  have hb : decode [opcodeByte s.begin, firstOperandByte s.begin, secondOperandByte s.begin] = .ok (i, rest) := hd
  have hf : fetchInstr s.begin = .ok i := by simp only [fetchInstr, hb]
  rw [step_of_fetched hp (sampledInterrupt_begin_eq_none_iff.2 ⟨hn, hi⟩) hf, opcodeFetched_begin]

/-! Stops. -/

/-- A step sees the state only past the record and the result of the last request. -/
theorem step_begin (s : State) : step s.begin = step s := rfl

theorem stepCycle_of_step_fault {s : State} {r : Fault} (h : step s = .fault r) : stepCycle s = .fault r := by
  obtain ⟨hp, -⟩ := step_fault h
  simp only [stepCycle, hp, h]

/-- Settles O8. The state left differs from the first one in the record and the result alone where the read uses up no
draw, and a step sees neither. -/
theorem illegalOpcodeFaultsWithByteAndPc : Obligations.IllegalOpcodeFaultsWithByteAndPc := by
  intro s hp hn hi hb byte left
  have h : step s = .fault (.illegalOpcode byte s.pc left) :=
    step_of_illegal hp (sampledInterrupt_begin_eq_none_iff.2 ⟨hn, hi⟩) hb
  refine ⟨h, stepCycle_of_step_fault h, fun hk => ?_⟩
  have hl : left.begin = s.begin := by
    simp only [left, Bus.perform_read_of_ne_io byte hk]
    rfl
  rw [← step_begin left, hl, step_begin]

theorem exec_ne_refused (i : Instr) (s : State) (r : Refusal) : exec i s ≠ .refused r := by
  obtain ⟨t, ht, -⟩ := exec_runsToItsEnd i s
  simp [ht]

/-- A step at a boundary is never refused. -/
theorem stepAtBoundary_ne_refused (s : State) (r : Refusal) : stepAtBoundary s ≠ .refused r := by
  unfold stepAtBoundary
  split
  · exact nofun
  · split
    · exact exec_ne_refused _ _ r
    · exact nofun

/-- Settles O9: by the phase, and at a boundary by what `step_fault` says of a fault. -/
theorem stepStopsOnlyOnIllegalOpcodeOrOutsideABoundary :
    Obligations.StepStopsOnlyOnIllegalOpcodeOrOutsideABoundary := by
  refine ⟨fun s r h => ?_, fun s r h => ?_, fun s => ⟨fun hp => ?_, fun f hp => ?_⟩⟩
  · obtain ⟨hp, hs, hi, rfl⟩ := step_fault h
    obtain ⟨hn, hirq⟩ := sampledInterrupt_begin_eq_none_iff.1 hs
    exact ⟨hp, hn, hirq, dispatchTable_eq_none_iff.1 (instrOf_eq_none_iff.1 hi), _, rfl⟩
  · unfold step at h
    split at h
    · next hp => exact .inl ⟨hp, (Host.Outcome.refused.inj h).symm⟩
    · next f hp => exact .inr ⟨⟨f, hp⟩, (Host.Outcome.refused.inj h).symm⟩
    · exact absurd h (stepAtBoundary_ne_refused _ _)
  · simp [step, stepCycle, hp]
  · simp [step, deliverReset, hp]

/-! Interrupt entries. -/

/-- The vector of an interrupt (R236). -/
def entryVector (source : InterruptSource) : Word :=
  match source with
  | .nmi => nmiVector
  | .irq => irqVector

/-- What servicing an interrupt does before its entry: it records the result, and NMI clears its pending bit (R233). -/
def acknowledge (source : InterruptSource) (s : State) : State :=
  { s with
    pendingNmi := match source with
      | .nmi => false
      | .irq => s.pendingNmi
    result := some (.interrupt source) }

theorem serviceInterrupt_eq (source : InterruptSource) (s : State) :
    serviceInterrupt source s = interruptEntry (entryVector source) (acknowledge source s) := by
  cases source <;> rfl

/-- What servicing an interrupt leaves in the control fields. -/
theorem serviceInterrupt_control (source : InterruptSource) (s : State) :
    (serviceInterrupt source s).pendingNmi = (acknowledge source s).pendingNmi ∧
      (serviceInterrupt source s).pendingIrq = s.pendingIrq ∧ (serviceInterrupt source s).phase = s.phase ∧
      (serviceInterrupt source s).result = some (.interrupt source) := by
  obtain ⟨_, _, _, -, -, -, -, -, hn, hi, hp, -, hr⟩ := interruptEntry_spec (entryVector source) (acknowledge source s)
  rw [serviceInterrupt_eq]
  exact ⟨hn, hi, hp, hr⟩

/-- Taking the interrupt that was sampled leaves no NMI pending. -/
theorem acknowledge_pendingNmi_of_sampled {source : InterruptSource} {s : State}
    (h : sampledInterrupt s = some source) : (acknowledge source s).pendingNmi = false := by
  cases source with
  | nmi => rfl
  | irq =>
    cases hn : s.pendingNmi with
    | false => exact hn
    | true => simp [sampledInterrupt, hn] at h

/-- The dispatcher's part of a completed step: its result, and the pending bits (R230, R233). -/
theorem step_control {s t : State} (h : step s = .next t) :
    t.result = some ((sampledInterrupt s.begin).elim (.executed (s.bus.value s.pc)) .interrupt) ∧
      t.pendingNmi = false ∧ t.pendingIrq = s.pendingIrq := by
  obtain ⟨-, ⟨source, hs, rfl⟩ | ⟨hs, i, -, he⟩⟩ := step_cases h
  · obtain ⟨hn, hi, -, hr⟩ := serviceInterrupt_control source s.begin
    exact ⟨by rw [hr, hs]; rfl, hn.trans (acknowledge_pendingNmi_of_sampled hs), hi⟩
  · obtain ⟨u, hu, ⟨hn, hi, -, -, hr⟩, -⟩ := exec_runsToItsEnd i (opcodeFetched s.begin)
    obtain rfl : u = t := Host.Outcome.next.inj (hu.symm.trans he)
    rw [opcodeFetched_begin] at hn hi hr
    exact ⟨by rw [hr, hs]; rfl, hn.trans (sampledInterrupt_begin_eq_none_iff.1 hs).1, hi⟩

/-- A step that completes without an interrupt has fetched a legal opcode byte. -/
theorem step_legal {s t : State} (h : step s = .next t) (hs : sampledInterrupt s.begin = none) :
    s.bus.value s.pc ∉ illegalOpcodeBytes := by
  intro hb
  rw [step_of_illegal (step_cases h).1 hs hb] at h
  cases h

/-- Settles O11: what `step_control` says of the interrupt sampled, written out by the three bits it is sampled from. -/
theorem interruptsAreTakenExactlyWhenPending : Obligations.InterruptsAreTakenExactlyWhenPending := by
  refine ⟨fun s t h => ?_, fun s => ⟨rfl, rfl, rfl⟩⟩
  obtain ⟨hr, hn, hi⟩ := step_control h
  refine ⟨?_, fun hb => ?_, hn, hi⟩
  · rw [hr, sampledInterrupt_begin]
    cases s.pendingNmi <;> cases s.pendingIrq <;> cases s.p.i <;> rfl
  · by_contra hno
    refine step_legal h (sampledInterrupt_begin_eq_none_iff.2 ?_) hb
    simpa [or_iff_not_imp_left] using hno

theorem sampledInterrupt_begin_eq_some {source : InterruptSource} {s : State}
    (hnmi : source = .nmi → s.pendingNmi = true)
    (hirq : source = .irq → s.pendingNmi = false ∧ s.pendingIrq = true ∧ s.p.i = false) :
    sampledInterrupt s.begin = some source := by
  rw [sampledInterrupt_begin]
  cases source with
  | nmi => simp [hnmi rfl]
  | irq => simp [hirq rfl]

theorem entryVector_eq (source : InterruptSource) :
    entryVector source = if source = .nmi then 0xFFFA#16 else 0xFFFE#16 := by
  cases source <;> rfl

/-- Settles O10: the interrupt asked for is the one sampled; then the entry's cycles and its frame on the stack. -/
theorem interruptEntryOfNmiAndIrq : Obligations.InterruptEntryOfNmiAndIrq := by
  intro source s hp hm hnmi hirq vec
  have hs := sampledInterrupt_begin_eq_some hnmi hirq
  have hst := step_of_sampled hp hs
  obtain ⟨-, hpn, hpi⟩ := step_control hst
  obtain ⟨-, -, hph, hr⟩ := serviceInterrupt_control source s.begin
  obtain ⟨hhi, hlo, hpp, hrest⟩ := interruptEntry_stored (entryVector source) (s := acknowledge source s.begin) hm
  obtain ⟨dummy, lo, hi, ⟨⟨htr, hcy, hbus⟩, hans⟩, hpc, hsp, hfl, ⟨ha, hx, hy, -⟩, -⟩ :=
    interruptEntry_spec (entryVector source) (acknowledge source s.begin)
  rw [← serviceInterrupt_eq] at hhi hlo hpp hrest htr hcy hbus hpc hsp hfl ha hx hy
  rw [entryVector_eq] at htr hans hbus
  generalize serviceInterrupt source s.begin = t at *
  exact ⟨t, dummy, lo, hi, hst, htr, htr ▸ hans, htr ▸ hbus, hpc, hsp, hfl, hcy, hpn, hpi, ha, hx, hy, hph.trans hp, hr, hhi,
    hlo, hpp, hrest⟩

end Sys2Proof.Machine

/-! The cycle requests (60_exceptions.md R245; 10_state.md R33). -/

namespace Sys2Proof.Machine

open Sys2Proof

theorem stepCycle_of_inFlight {s : State} {f : InFlight} (h : s.phase = .inFlight f) :
    stepCycle s = .next (continueFlight f s) := by
  simp only [stepCycle, h]

theorem stepCycle_of_step {s t : State} (h : step s = .next t) :
    stepCycle s = .next (continueFlight ⟨t.trace, t.regs, t.result⟩ (s.setPendingNmi t.pendingNmi)) := by
  simp only [stepCycle, (step_cases h).1, h]

theorem stepCycles_succ {n : Nat} {s t : State} (h : stepCycle s = .next t) :
    stepCycles (n + 1) s = stepCycles n t := by
  simp only [stepCycles, h]

/-- What the last cycle of a flight leaves: the instruction's registers and result at a boundary, every cycle done on the
bus and counted, the last one as the record, and the pending bits as they were. -/
def flightEnd (f : InFlight) (s : State) : State where
  a := f.regs.a
  x := f.regs.x
  y := f.regs.y
  sp := f.regs.sp
  pc := f.regs.pc
  p := f.regs.p
  cycles := s.cycles + BitVec.ofNat 64 f.todo.length
  pendingNmi := s.pendingNmi
  pendingIrq := s.pendingIrq
  phase := .boundary
  bus := f.todo.foldl Bus.perform s.bus
  trace := f.todo.getLast?.toList
  result := f.result

/-- A flight is at its end after one request for each cycle, by induction on the cycles left. -/
theorem stepCycles_continueFlight (regs : Regs) (result : Option StepResult) (c : BusCycle) (cs : List BusCycle)
    (s : State) : stepCycles cs.length (continueFlight ⟨c :: cs, regs, result⟩ s) =
      .next (flightEnd ⟨c :: cs, regs, result⟩ s) := by
  induction cs generalizing c s with
  | nil => rfl
  | cons d rest ih =>
    have hn : s.cycles + 1 + BitVec.ofNat 64 (rest.length + 1) = s.cycles + BitVec.ofNat 64 (rest.length + 1 + 1) := by
      rw [BitVec.ofNat_add (rest.length + 1), BitVec.add_assoc, BitVec.add_comm 1]
      rfl
    have he : flightEnd ⟨d :: rest, regs, result⟩ (continueFlight ⟨c :: d :: rest, regs, result⟩ s) =
        flightEnd ⟨c :: d :: rest, regs, result⟩ s := by
      simp only [flightEnd, List.length_cons, ← hn]
      rfl
    rw [List.length_cons, stepCycles_succ (stepCycle_of_inFlight rfl), ih, he]

/-- Settles O57: the first request decides the cycles and the end of the step's instruction, and leaves the pending bits as
the step does; the flight then runs to its end. -/
theorem stepCyclesRefineTheStep : Obligations.StepCyclesRefineTheStep := by
  intro s t h
  obtain ⟨⟨-, hcy, hbus⟩, h2, -, hph⟩ := step_two_to_seven h
  obtain ⟨-, -, hirq⟩ := step_control h
  cases htr : t.trace with
  | nil => simp [htr] at h2
  | cons c cs =>
    have hrun : stepCycles (cs.length + 1) s =
        .next (flightEnd ⟨t.trace, t.regs, t.result⟩ (s.setPendingNmi t.pendingNmi)) := by
      rw [stepCycles_succ (stepCycle_of_step h), htr, stepCycles_continueFlight]
    refine ⟨_, (c :: cs).getLast (by simp), hrun, List.getLast?_eq_some_getLast _, ?_⟩
    simp only [flightEnd, hcy, hbus, hph, hirq, htr]
    rfl

/-! Input events inside an instruction. -/

theorem continueFlight_setPendingNmi (f : InFlight) (s : State) (v : Bool) :
    continueFlight f (s.setPendingNmi v) = (continueFlight f s).setPendingNmi v := by
  obtain ⟨_ | ⟨c, _ | ⟨d, rest⟩⟩, regs, result⟩ := f <;> rfl

theorem continueFlight_setPendingIrq (f : InFlight) (s : State) (v : Bool) :
    continueFlight f (s.setPendingIrq v) = (continueFlight f s).setPendingIrq v := by
  obtain ⟨_ | ⟨c, _ | ⟨d, rest⟩⟩, regs, result⟩ := f <;> rfl

/-- Settles O58: the cycle done by `continueFlight`, which neither reads nor writes a pending bit. -/
theorem inputEventsInsideAnInstructionOnlySetPendingBits :
    Obligations.InputEventsInsideAnInstructionOnlySetPendingBits := by
  intro s f c cs hp htodo
  have hev (s' : State) (hs' : s'.phase = s.phase) : stepCycle s' = .next (continueFlight f s') :=
    stepCycle_of_inFlight (hs'.trans hp)
  refine ⟨_, hev s rfl, ?_⟩
  rw [hev (nmiReq s) rfl, hev (irqSet s) rfl, hev (irqClear s) rfl]
  simp only [nmiReq, irqSet, irqClear, continueFlight_setPendingNmi, continueFlight_setPendingIrq]
  obtain ⟨todo, regs, result⟩ := f
  obtain rfl : todo = c :: cs := htodo
  cases cs with
  | nil => exact ⟨rfl, rfl, rfl, rfl, rfl, ⟨rfl, rfl, rfl⟩, trivial, trivial, trivial⟩
  | cons d rest => exact ⟨rfl, rfl, rfl, rfl, rfl, rfl, trivial, trivial, trivial⟩

end Sys2Proof.Machine

/-! RESET (70_reset_and_hazards.md R260, R261). -/

namespace Sys2Proof.Machine

open Sys2Proof

theorem deliverReset_of_not_inFlight {s : State} (h : s.phase = .boundary ∨ s.phase = .beforeReset) :
    deliverReset s = .next ((resetSequence s.begin).setPhase .boundary) := by
  rcases h with h | h <;> simp only [deliverReset, h]

/-- The record of RESET in a request of its own (R260). -/
theorem resetSequence_begin_trace (s : State) :
    (resetSequence s.begin).trace = [.idle, .idle, .idle, .idle, .idle, .read 0xFFFC#16 (vectorLo resetVector s.begin),
      .read 0xFFFD#16 (vectorHi resetVector s.begin)] := (ran_resetSequence s.begin).1.1

/-- Settles O14, by running the RESET of a core whose bus lists nothing; both bytes of the vector are then $00. -/
theorem resetStateIsPowerOnThenReset : Obligations.ResetStateIsPowerOnThenReset := fun pc p => calc
  deliverReset (.powerOn ⟨0, 0, 0, 0, pc, p⟩ ⟨[], [], 0⟩)
    = .next { State.reset with pc := word 0x00#8 0x00#8 } := rfl
  _ = .next State.reset := rfl

/-- Settles O15: the reset state lists no memory and stands at a boundary. -/
theorem resetHasTheInvariant : Obligations.ResetHasTheInvariant := inv_of_boundary rfl rfl

end Sys2Proof.Machine

namespace Sys2Proof

open Sys2Proof.Machine

/-- Settles O12: the fields and the cycles of RESET, none of which is a write. -/
theorem resetSequence : Obligations.ResetSequence := by
  intro s hp
  have hd := deliverReset_of_not_inFlight hp
  have htr := resetSequence_begin_trace s
  obtain ⟨hperf, hans⟩ := ran_resetSequence s.begin
  obtain ⟨ha, hx, hy, hsp, hfl, hpc, hn, hi, -, -⟩ := resetSequence_fields s.begin
  have hm : (Machine.resetSequence s.begin).bus.mem = s.bus.mem := by
    rw [hperf.2.2]
    exact foldl_perform_mem_of_no_write s.bus (by simp)
  -- of the state after RESET nothing more is needed than these facts
  generalize Machine.resetSequence s.begin = t at *
  exact ⟨_, _, _, hd, htr, htr ▸ hans, hpc, hsp, hfl, congrArg Flags.pack hfl, hperf.2.1, hn, hi, ha, hx, hy, rfl, hm,
    hperf.platform⟩

end Sys2Proof

/-! Jumps, subroutine call and return (47_control_flow.md R189 to R191). -/

namespace Sys2Proof.Machine

open Sys2Proof

/-- The pointer's high byte stays in its page: the bug of JMP indirect (R90). -/
theorem indirectHighAddr_toNat (ptr : Word) :
    (indirectHighAddr ptr).toNat = ptr.toNat / 256 * 256 + (ptr.toNat + 1) % 256 := by
  have hlow : ((ptr + 1) &&& 0x00FF#16).toNat = (ptr.toNat + 1) % 256 := by
    rw [BitVec.toNat_and, show (0x00FF#16).toNat = 2 ^ 8 - 1 from rfl, Nat.and_two_pow_sub_one_eq_mod, BitVec.toNat_add]
    simp
  have hhigh : (ptr &&& 0xFF00#16).toNat = (ptr.toNat / 256) <<< 8 := by
    rw [Nat.shiftLeft_eq]
    exact page_toNat ptr
  have hlt : (ptr.toNat + 1) % 256 < 2 ^ 8 := Nat.mod_lt _ (by decide)
  rw [indirectHighAddr, BitVec.toNat_or, hlow, hhigh, ← Nat.shiftLeft_add_eq_or_of_lt hlt, Nat.shiftLeft_eq]

theorem jumpIndirect_frame (ptr : Word) (s : State) :
    RegistersKept s (jumpIndirect ptr s) ∧ (jumpIndirect ptr s).p = s.p := by
  simp [RegistersKept, jumpIndirect, resolveIndirect]

/-- Settles O40: both jumps are reads alone, so memory is as before; the pointer's high byte by `indirectHighAddr_toNat`. -/
theorem jumpsAbsoluteAndIndirect : Obligations.JumpsAbsoluteAndIndirect := by
  refine ⟨rfl, ?_⟩
  intro addr s fetched
  constructor
  · have h : Performed fetched s ((fetchWord addr s).setPc addr) := performed_fetchWord addr s
    exact ⟨_, rfl, h, State.setPc_pc _ _, by simp [RegistersKept], by simp, h.memoryUnchanged (by simp [fetched]),
      h.controlKept (by simp) (by simp) (by simp) (by simp)⟩
  · obtain ⟨lo, hi, hpc, h, hans⟩ := performed_jumpIndirect addr s
    obtain ⟨hr, hp⟩ := jumpIndirect_frame addr s
    obtain ⟨t, ht, hk, -⟩ := runsToItsEnd_jmpInd addr s
    rw [show jumpIndirect addr s = t from Host.Outcome.next.inj ht] at hpc h hr hp
    exact ⟨t, _, lo, hi, ht, indirectHighAddr_toNat addr, h, hans, hpc, hr, hp, h.memoryUnchanged (by simp), hk⟩

/-- Settles O41: the byte JSR reads last is answered by the bus as the two pushes have left it. -/
theorem jsrPushesThenReadsTheHighByte : Obligations.JsrPushesThenReadsTheHighByte := by
  refine ⟨rfl, ?_⟩
  intro target s hm first
  obtain ⟨⟨ha, hx, hy, hsp⟩, hp, hk⟩ := jumpToSubroutine_frame target s
  obtain ⟨hhi, hlo, hrest⟩ := jumpToSubroutine_stored target hm
  have hb : (jsrPushed target s).bus = first.foldl Bus.perform s.bus := (performed_jsrPushed target s).2.2
  have hpc : (jumpToSubroutine target s).pc = word (loByte target) ((jsrPushed target s).bus.value (s.pc + 1)) := by
    rw [jumpToSubroutine_eq, State.setPc_pc]
  have h := performed_jumpToSubroutine target s
  have he : exec (.jsr target) s = .next (jumpToSubroutine target s) := rfl
  generalize jumpToSubroutine target s = t at *
  exact ⟨t, _, he, h, congrArg (Bus.value · (s.pc + 1)) hb, hpc, hsp, ha, hx, hy, hp, hk, hhi, hlo, hrest⟩

/-- Settles O42, by `returnFromSubroutine_spec`; the pulled word plus 1 is read as a number. -/
theorem rtsPullsAndAddsOne : Obligations.RtsPullsAndAddsOne := by
  refine ⟨rfl, fun s => ?_⟩
  obtain ⟨lo, hi, ⟨h, hlo, hhi, -⟩, hpc, hp, ⟨ha, hx, hy, hsp⟩, hk⟩ := returnFromSubroutine_spec s
  have he : exec .rts s = .next (returnFromSubroutine s) := rfl
  generalize returnFromSubroutine s = t at *
  refine ⟨t, lo, hi, he, h, ⟨hlo, hhi, trivial⟩, ?_, hsp, ha, hx, hy, hp, h.memoryUnchanged (by simp), hk⟩
  rw [hpc, BitVec.toNat_add, word_toNat]
  rfl

end Sys2Proof.Machine

/-! Pushes and pulls of one byte, the flag instructions, NOP (48_stack_flags_nop.md R200 to R211). -/

namespace Sys2Proof.Machine

open Sys2Proof

/-- The idle cycle and the push of PHA and PHP keep the control fields (R200, R202). -/
theorem idle_push_controlKept (v : Byte) (s : State) : ControlKept s (push v (idle s)) :=
  (performed_idle_push v s).controlKept rfl rfl rfl rfl

/-- Settles O43: both are one push after an idle cycle, of the byte `v`. -/
theorem phaAndPhpPush : Obligations.PhaAndPhpPush := by
  refine ⟨rfl, rfl, ?_⟩
  intro s hm i hi v
  have he : exec i s = .next (push v (idle s)) := by
    simp only [List.mem_cons, List.not_mem_nil, or_false] at hi
    rcases hi with rfl | rfl <;> rfl
  exact ⟨_, he, performed_idle_push v s, push_storedAt v (s := idle s) hm, rfl, rfl, rfl, rfl, rfl, rfl,
    idle_push_controlKept v s⟩

/-- Settles O44: what the pull does is the same for both; they differ in where the byte goes. -/
theorem plaAndPlpPull : Obligations.PlaAndPlpPull := by
  refine ⟨rfl, rfl, fun s i hi => ?_⟩
  have h := (ran_idle2_pull s).1
  have hm : MemoryUnchanged s (pull (idle (idle s))).2 := h.memoryUnchanged (by simp)
  have hk : ControlKept s (pull (idle (idle s))).2 := h.controlKept (by simp) (by simp) (by simp) (by simp)
  have ⟨⟨ha, hx, hy, hsp⟩, hpc, hp⟩ : RegistersKept (s.setSp (s.sp + 1)) (pull (idle (idle s))).2 ∧
      (pull (idle (idle s))).2.pc = s.pc ∧ (pull (idle (idle s))).2.p = s.p := by simp [RegistersKept]
  have hpla : exec .pla s = _ := congrArg Host.Outcome.next (pullA_eq s)
  have hplp : exec .plp s = _ := congrArg Host.Outcome.next (pullP_eq s)
  generalize (pull (idle (idle s))).2 = u at *
  simp only [List.mem_cons, List.not_mem_nil, or_false] at hi
  rcases hi with rfl | rfl
  · exact ⟨_, _, hpla, rfl, h, hsp, hx, hy, hpc, hm, hk, fun _ => ⟨rfl, hp ▸ onlyZN_setZN u.p _⟩, nofun⟩
  · exact ⟨_, _, hplp, rfl, h, hsp, hx, hy, hpc, hm, hk, nofun, fun _ => ⟨ha, rfl⟩⟩

/-- Settles O45: the rows by looking them up; then each runs to one idle cycle and its flag. -/
theorem flagInstructionsAndNop : Obligations.FlagInstructionsAndNop :=
  ⟨rfl, rfl, rfl, rfl, rfl, rfl, rfl, rfl, fun _ => ⟨rfl, rfl, rfl, rfl, rfl, rfl, rfl, rfl⟩⟩

end Sys2Proof.Machine

/-! BRK and RTI (49_brk_rti.md R220, R221). -/

namespace Sys2Proof.Machine

open Sys2Proof

/-- Settles O46: the cycles and registers of `brkEntry_spec`, and the frame of `brkEntry_stored`. -/
theorem brkEntersTheHandler : Obligations.BrkEntersTheHandler := by
  refine ⟨rfl, fun s hm => ?_⟩
  obtain ⟨lo, hi, ⟨h, hans⟩, hpc, hsp, hp, ⟨ha, hx, hy, -⟩, hk⟩ := brkEntry_spec s
  obtain ⟨hhi, hlo, hpp, hrest⟩ := brkEntry_stored hm
  have he : exec .brk s = .next (brkEntry s) := rfl
  generalize brkEntry s = t at *
  exact ⟨t, lo, hi, he, ⟨h, hans⟩, hpc, hsp, hp, ha, hx, hy, hk, hhi, hlo, hpp, hrest⟩

/-- Settles O47, by `returnFromInterrupt_spec`; pulls are reads, so memory is as before. -/
theorem rtiRestoresFlagsAndPc : Obligations.RtiRestoresFlagsAndPc := by
  refine ⟨rfl, fun s => ?_⟩
  obtain ⟨v, lo, hi, ⟨h, hans⟩, hpc, hsp, hp, ⟨ha, hx, hy, -⟩, hk⟩ := returnFromInterrupt_spec s
  have he : exec .rti s = .next (returnFromInterrupt s) := rfl
  generalize returnFromInterrupt s = t at *
  exact ⟨t, v, lo, hi, he, h, hans, hp, hpc, hsp, ha, hx, hy, h.memoryUnchanged (by simp), hk⟩

end Sys2Proof.Machine

/-! Round trips over the stack (95_test_vectors.md I6 to I8). -/

namespace Sys2Proof.Machine

open Sys2Proof

theorem unpack_packPhp (p : Flags) : Flags.unpack p.packPhp = p :=
  (unpack_or_bits54 p.pack).trans (unpack_pack p)

theorem unpack_packIrq (p : Flags) : Flags.unpack p.packIrq = p := by rw [packIrq_eq_pack, unpack_pack]

theorem StackIsRam.of_platform {s t : State} (h : StackIsRam s) (hp : t.bus.platform = s.bus.platform) : StackIsRam t :=
  fun sp => by rw [Bus.kindAt, hp]; exact h sp

/-- On a stack in RAM a push is kept. -/
theorem StackIsRam.storedByte {s : State} (h : StackIsRam s) (sp v : Byte) : storedByte s (stackAddr sp) v = v :=
  if_pos (h sp)

/-- On a stack in RAM a pull answers the byte held. -/
theorem StackIsRam.value {s : State} (h : StackIsRam s) (sp : Byte) :
    s.bus.value (stackAddr sp) = s.peek (stackAddr sp) :=
  Bus.value_of_ne_io (by simp [h sp])

/-- On a stack in RAM no pull changes what the bus answers. -/
theorem StackIsRam.perform_read {s : State} (h : StackIsRam s) (sp v : Byte) :
    s.bus.perform (.read (stackAddr sp) v) = s.bus :=
  Bus.perform_read_of_ne_io v (by simp [h sp])

/-- Settles O48: the pull reads the address of the push. -/
theorem pushThenPullRestores : Obligations.PushThenPullRestores := by
  intro s t t' hm hram hplat hsp hpk
  have hsp' : t'.sp + 1 = s.sp := by rw [hsp]; bv_omega
  have hpull {v : Byte} (ht : push v (idle s) = t) : t'.bus.value (stackAddr (t'.sp + 1)) = v := by
    have hst : (push v (idle s)).peek (stackAddr s.sp) = v :=
      (push_storedAt v (s := idle s) hm).1.trans (hram.storedByte s.sp v)
    rw [hsp', (hram.of_platform hplat).value, hpk, ← ht, hst]
  constructor
  · intro h
    have hv := hpull (Host.Outcome.next.inj h)
    refine ⟨_, congrArg Host.Outcome.next (pullA_eq t'), ?_⟩
    rw [hv]
    exact ⟨rfl, onlyZN_setZN t'.p s.a, hsp'⟩
  · intro h
    have hv := hpull (Host.Outcome.next.inj h)
    refine ⟨_, congrArg Host.Outcome.next (pullP_eq t'), ?_⟩
    rw [hv]
    exact ⟨unpack_packPhp s.p, hsp'⟩

/-- RTS takes the return address that lies in the two bytes up to `sp` (R191). -/
theorem exec_rts_of_stack {t : State} {sp : Byte} {ret : Word} (hram : StackIsRam t) (hsp : t.sp = sp - 2)
    (hhi : t.peek (stackAddr sp) = hiByte ret) (hlo : t.peek (stackAddr (sp - 1)) = loByte ret) :
    ∃ u, exec .rts t = .next u ∧ u.pc = ret + 1 ∧ u.sp = sp := by
  obtain ⟨lo, hi, ⟨-, hans⟩, hpc, -, ⟨-, -, -, hsp'⟩, -⟩ := returnFromSubroutine_spec t
  have e1 : t.sp + 1 = sp - 1 := by rw [hsp]; bv_omega
  have e2 : t.sp + 2 = sp := by rw [hsp]; bv_omega
  simp only [Answered, Bus.perform_idle, hram.perform_read, hram.value, e1, e2, hhi, hlo] at hans
  obtain ⟨rfl, rfl, -⟩ := hans
  have he : exec .rts t = .next (returnFromSubroutine t) := rfl
  generalize returnFromSubroutine t = u at *
  exact ⟨u, he, hpc.trans (by rw [word_lo_hi]), hsp'.trans e2⟩

/-- Settles O49: what RTS finds is the address of JSR's third byte. -/
theorem rtsReturnsPastTheJsr : Obligations.RtsReturnsPastTheJsr := by
  intro target s t t' hm hram he hplat hsp hhi hlo
  obtain rfl : jumpToSubroutine target s = t := Host.Outcome.next.inj he
  obtain ⟨⟨-, -, -, hs⟩, -, -⟩ := jumpToSubroutine_frame target s
  obtain ⟨hhi', hlo', -⟩ := jumpToSubroutine_stored target hm
  rw [hram.storedByte] at hhi' hlo'
  obtain ⟨u, hu, hpc, hsp'⟩ :=
    exec_rts_of_stack (hram.of_platform hplat) (hsp.trans hs) (hhi.trans hhi') (hlo.trans hlo')
  exact ⟨u, hu, hpc.trans (BitVec.add_assoc _ _ _), hsp'⟩

/-- RTI takes P and the return address that lie in the three bytes up to `sp` (R221). -/
theorem exec_rti_of_frame {t : State} {sp q : Byte} {ret : Word} (hram : StackIsRam t) (hsp : t.sp = sp - 3)
    (hhi : t.peek (stackAddr sp) = hiByte ret) (hlo : t.peek (stackAddr (sp - 1)) = loByte ret)
    (hq : t.peek (stackAddr (sp - 2)) = q) :
    ∃ u, exec .rti t = .next u ∧ u.pc = ret ∧ u.p = Flags.unpack q ∧ u.sp = sp := by
  obtain ⟨v, lo, hi, ⟨-, hans⟩, hpc, hsp', hp, -, -⟩ := returnFromInterrupt_spec t
  have e1 : t.sp + 1 = sp - 2 := by rw [hsp]; bv_omega
  have e2 : t.sp + 2 = sp - 1 := by rw [hsp]; bv_omega
  have e3 : t.sp + 3 = sp := by rw [hsp]; bv_omega
  simp only [Answered, Bus.perform_idle, hram.perform_read, hram.value, e1, e2, e3, hhi, hlo, hq] at hans
  obtain ⟨rfl, rfl, rfl, -⟩ := hans
  have he : exec .rti t = .next (returnFromInterrupt t) := rfl
  generalize returnFromInterrupt t = u at *
  exact ⟨u, he, hpc.trans (word_lo_hi ret), hp, hsp'.trans e3⟩

/-- Settles O50: NMI and IRQ entry and BRK leave the same frame, but for the return address and the copy of P. -/
theorem rtiUndoesInterruptEntryAndBrk : Obligations.RtiUndoesInterruptEntryAndBrk := by
  intro s t t' hm hram hplat hsp hkept
  have hret {ret : Word} {q : Byte} (hs : t.sp = s.sp - 3)
      (hhi : t.peek (stackAddr s.sp) = storedByte s (stackAddr s.sp) (hiByte ret))
      (hlo : t.peek (stackAddr (s.sp - 1)) = storedByte s (stackAddr (s.sp - 1)) (loByte ret))
      (hq : t.peek (stackAddr (s.sp - 2)) = storedByte s (stackAddr (s.sp - 2)) q) :
      ∃ u, exec .rti t' = .next u ∧ u.pc = ret ∧ u.p = Flags.unpack q ∧ u.sp = s.sp := by
    rw [hram.storedByte] at hhi hlo hq
    exact exec_rti_of_frame (hram.of_platform hplat) (hsp.trans hs) ((hkept _ (by simp)).trans hhi)
      ((hkept _ (by simp)).trans hlo) ((hkept _ (by simp)).trans hq)
  constructor
  · rintro ⟨source, rfl⟩
    rw [serviceInterrupt_eq] at hret
    obtain ⟨_, _, _, -, -, hs, -⟩ := interruptEntry_spec (entryVector source) (acknowledge source s)
    obtain ⟨hhi, hlo, hq, -⟩ := interruptEntry_stored (entryVector source) (s := acknowledge source s) hm
    have h := hret hs hhi hlo hq
    rwa [show (acknowledge source s).p = s.p from rfl, unpack_packIrq] at h
  · intro he
    obtain rfl : brkEntry s = t := Host.Outcome.next.inj he
    obtain ⟨_, _, -, -, hs, -⟩ := brkEntry_spec s
    obtain ⟨hhi, hlo, hq, -⟩ := brkEntry_stored hm
    have h := hret hs hhi hlo hq
    rwa [unpack_packPhp] at h

end Sys2Proof.Machine
